-- ==== Sys2Proof/Word.lean ====
section
/-! DEFINITION. The fixed widths of the wrapper (00_scope.md R9) and the types of what crosses its interface. -/

namespace Sys2Proof

/-- The data bus width `BUS_W` (R9). -/
abbrev busW : Nat := 128

/-- A value on the 128-bit data bus (R9, R51). Registers narrower than the bus are held in one with zero upper bits. -/
abbrev Word := BitVec 128

/-- A command word `cmd[15:0]` (R9, R62). -/
abbrev CmdWord := BitVec 16

/-- A register index, the 6-bit `IDX` field (R9, R63, R64). -/
abbrev RegIdx := BitVec 6

end Sys2Proof
end

