-- ==== Sys2Proof/Syntax.lean ====
section
/-! DEFINITION. The commands of the core, one constructor per row of the opcode table (30_encoding.md R65, R66). -/

namespace Sys2Proof

/-- A legal command. The write-data word is no part of it: it is presented beside the command word (R62, R64). -/
inductive Instr where
  /-- `NOP` (42_access.md R98). -/
  | nop
  /-- `UNPACK` (40_unpack.md R78). -/
  | unpack
  /-- `PACK` (41_pack.md R90). -/
  | pack
  /-- `RD idx` (42_access.md R101). -/
  | rd (idx : RegIdx)
  /-- `WR idx` (42_access.md R102). -/
  | wr (idx : RegIdx)
  deriving DecidableEq, Repr

end Sys2Proof
end

