-- ==== Sys2Proof/Decode.lean ====
section
/-! DEFINITION. The decoder, total on all 2^16 words, and the encoder (30_encoding.md R62 to R68). -/

namespace Sys2Proof

/-- Why a command word is illegal (R67). The names and which of them comes first are the model's:
DESIGN CHOICE, safe (assumption log 6). -/
inductive Illegal where
  /-- `RSV` is not zero. -/
  | reservedBits
  /-- `OP` is 0x5 to 0xF. -/
  | reservedOpcode
  /-- `IDX` is not zero with `NOP`, `UNPACK` or `PACK`. -/
  | strayIndex
  deriving DecidableEq, Repr

/-- `OP`, bits 15 to 12 (R63). -/
def opField (w : CmdWord) : BitVec 4 := w.extractLsb' 12 4

/-- `RSV`, bits 11 to 6 (R63). -/
def rsvField (w : CmdWord) : BitVec 6 := w.extractLsb' 6 6

/-- `IDX`, bits 5 to 0 (R63, R64). -/
def idxField (w : CmdWord) : RegIdx := w.extractLsb' 0 6

/-- A command that takes no index: legal only with `IDX = 0` (R66, R67). -/
def withoutIndex (idx : RegIdx) (i : Instr) : Except Illegal Instr :=
  if idx = 0 then .ok i else .error .strayIndex

/-- The decoder (R68), each illegal word rejected by name. -/
def decode (w : CmdWord) : Except Illegal Instr :=
  if rsvField w ≠ 0 then .error .reservedBits
  else match (opField w).toNat with
    | 0x0 => withoutIndex (idxField w) .nop
    | 0x1 => withoutIndex (idxField w) .unpack
    | 0x2 => withoutIndex (idxField w) .pack
    | 0x3 => .ok (.rd (idxField w))
    | 0x4 => .ok (.wr (idxField w))
    | _ => .error .reservedOpcode

/-- The opcode of a command (R65). -/
def Instr.opcode : Instr → BitVec 4
  | .nop => 0x0
  | .unpack => 0x1
  | .pack => 0x2
  | .rd _ => 0x3
  | .wr _ => 0x4

/-- The `IDX` field of a command; zero where it takes none (R63). -/
def Instr.index : Instr → RegIdx
  | .nop => 0
  | .unpack => 0
  | .pack => 0
  | .rd idx => idx
  | .wr idx => idx

/-- The command word: `OP`, six zero bits, `IDX` (R63, R66). -/
def encode (i : Instr) : CmdWord := i.opcode ++ (0 : BitVec 6) ++ i.index

/-- The command word whose bits are `w`, of a command of `nbits` bits. DESIGN CHOICE, safe (assumption log 3). -/
def tableCmdWord (nbits w : Nat) : CmdWord := BitVec.ofNat 16 (w % 2 ^ nbits)

/-- The host's question: the instruction read from a table row's bits. The core has one command length and no byte
order (R52, R62): bit 0 of the number is bit 0 of the command word, and bits above the word are none of it. -/
def decodeTableWord (nbits w : Nat) : Option Instr :=
  match decode (tableCmdWord nbits w) with
  | .ok i => some i
  | .error _ => none

end Sys2Proof
end

