-- ==== Sys2Proof/Config.lean ====
section
/-! DEFINITION. What is fixed at configuration time (00_scope.md R8): the format descriptor, the two policies, the
format identifier, and the request a generator is given. Only the data types stand here; the derived constants are in
Machine/Descriptor.lean and the checks in Machine/Elaborate.lean. -/

namespace Sys2Proof

/-- The format descriptor (10_state.md R18). -/
structure Descriptor where
  totalW : Nat
  signW : Nat
  signOff : Nat
  expW : Nat
  expOff : Nat
  manW : Nat
  manOff : Nat
  implicit : Bool
  /-- The bias the descriptor gives; none where it gives none and R25's default holds. -/
  givenBias : Option Int
  deriving DecidableEq, Repr

/-- The format an instance is configured with (10_state.md R31). Only the custom one has a descriptor of its own. -/
inductive Format where
  | custom (d : Descriptor)
  | e5m2
  | e4m3
  | binary16
  | binary32
  | binary64
  deriving DecidableEq, Repr

/-- The rounding policy `POLICY` (10_state.md R27). -/
inductive RoundingPolicy where
  /-- Truncating, no guard bits. -/
  | trunc
  /-- Nearest, ties to even, three guard bits. -/
  | rne
  deriving DecidableEq, Repr

/-- The overflow policy `OVF_POLICY` (10_state.md R30). -/
inductive OverflowPolicy where
  /-- The reference design's behaviour: the mantissa wraps, the exponent stays. -/
  | reference
  /-- The carry goes into the exponent. -/
  | carry
  deriving DecidableEq, Repr

/-- The configuration of one instance (00_scope.md R8). -/
structure Cfg where
  format : Format
  policy : RoundingPolicy
  ovf : OverflowPolicy
  deriving DecidableEq, Repr

/-- The configuration failures, by the names a generator reports (60_exceptions.md R107). -/
inductive ConfigFailure where
  /-- `CFG_ZERO_WIDTH` (R19). -/
  | zeroWidth
  /-- `CFG_FIELD_BOUNDS` (R20). -/
  | fieldBounds
  /-- `CFG_TOTAL_TOO_SMALL` (R21). -/
  | totalTooSmall
  /-- `CFG_OVERLAP` (R22). -/
  | overlap
  /-- `CFG_WIDTH_RANGE` (R23). -/
  | widthRange
  /-- `CFG_SIGN_WIDTH` (R24). -/
  | signWidth
  /-- `CFG_POLICY` (R27). -/
  | policy
  /-- `CFG_OVF_POLICY` (R30). -/
  | ovfPolicy
  /-- `CFG_FMT_ID` (R31). -/
  | fmtId
  /-- `CFG_BIAS_RANGE` (R36). -/
  | biasRange
  deriving DecidableEq, Repr

/-- What a generator is asked to elaborate, before any check: parameters that may be illegal.
DEDUCED, safe: the parameter values carry the numbers that R37 gives their ROM registers (assumption log 9). -/
structure ConfigRequest where
  fmtId : Nat
  /-- The descriptor of `FMT_ID = 0`; without effect for 1 to 5, whose fields cannot be overridden (R31). -/
  custom : Descriptor
  /-- `POLICY`; the default is `TRUNC` (R27). -/
  policy : Nat := 0
  /-- `OVF_POLICY`; the default is `CARRY` (R30). -/
  ovfPolicy : Nat := 1
  deriving DecidableEq, Repr

end Sys2Proof
end

