-- ==== Sys2Proof/Machine/Bits.lean ====
section
/-! DEFINITION. The pseudocode primitives of 00_scope.md R11. Datapath arithmetic is on natural numbers, as R11 has it,
and is narrowed where a register is written. -/

namespace Sys2Proof.Machine

/-- `ones(w)`: `w` one bits (R11). -/
def ones (w : Nat) : Nat := 2 ^ w - 1

/-- `field(v, off, w)`: bits `off+w-1` down to `off` of `v` (R10, R11). -/
def field (v off w : Nat) : Nat := (v >>> off) % 2 ^ w

/-- `~w a`: the `w`-bit complement (R11). -/
def complW (w a : Nat) : Nat := ones w - a

/-- `trunc_N(v)`: the low `n` bits of `v` (R11). -/
def truncTo (n v : Nat) : Nat := v % 2 ^ n

/-- `bit(t)` (R11). -/
def bitOf (t : Bool) : Nat := if t then 1 else 0

/-- `zext_128(v)` of a value that fits the bus (R11, R51). -/
def zextWord (v : Nat) : Word := BitVec.ofNat 128 v

/-- `sext_128(v)` of a signed constant (R11, R36). -/
def sextWord (v : Int) : Word := BitVec.ofInt 128 v

end Sys2Proof.Machine
end

