-- ==== Sys2Proof/Machine/Descriptor.lean ====
section
/-! DEFINITION. The constants derived from a configuration: the predefined formats, the bias, `G`, `MW`, the
storage-field masks and the unpacked-mantissa helpers (10_state.md R25, R28, R29, R31 to R33). -/

namespace Sys2Proof

open Sys2Proof.Machine

/-- R25: the bias of a descriptor that gives none. -/
def Descriptor.defaultBias (d : Descriptor) : Int := 2 ^ (d.expW - 1) - 1

/-- `BIAS` (R18, R25). -/
def Descriptor.bias (d : Descriptor) : Int := d.givenBias.getD d.defaultBias

/-- A layout of the predefined kind of R31: sign at the top bit, exponent below it, mantissa at bit 0, implicit bit,
default bias, no padding. -/
def Descriptor.packedLayout (expW manW : Nat) : Descriptor :=
  { totalW := 1 + expW + manW, signW := 1, signOff := expW + manW, expW := expW, expOff := manW,
    manW := manW, manOff := 0, implicit := true, givenBias := none }

/-- The descriptor that a format stands for (R31). -/
def Format.desc : Format → Descriptor
  | .custom d => d
  | .e5m2 => Descriptor.packedLayout 5 2
  | .e4m3 => Descriptor.packedLayout 4 3
  | .binary16 => Descriptor.packedLayout 5 10
  | .binary32 => Descriptor.packedLayout 8 23
  | .binary64 => Descriptor.packedLayout 11 52

/-- `FMT_ID` (R31, R37). -/
def Format.fmtId : Format → Nat
  | .custom _ => 0
  | .e5m2 => 1
  | .e4m3 => 2
  | .binary16 => 3
  | .binary32 => 4
  | .binary64 => 5

/-- `G` as a function of the policy (R28). -/
def RoundingPolicy.guardBits : RoundingPolicy → Nat
  | .trunc => 0
  | .rne => 3

/-- The number `POLICY` reads as (R37). -/
def RoundingPolicy.code : RoundingPolicy → Nat
  | .trunc => 0
  | .rne => 1

/-- The number `OVF_POLICY` reads as (R37). -/
def OverflowPolicy.code : OverflowPolicy → Nat
  | .reference => 0
  | .carry => 1

/-- `MW` for a given guard-bit count (R29). -/
def Descriptor.mwWith (d : Descriptor) (g : Nat) : Nat := d.manW + bitOf d.implicit + g

/-- `SIGN_FMASK` (R32). -/
def Descriptor.signFmask (d : Descriptor) : Nat := ones d.signW <<< d.signOff

/-- `EXP_FMASK` (R32). -/
def Descriptor.expFmask (d : Descriptor) : Nat := ones d.expW <<< d.expOff

/-- `MAN_FMASK` (R32). -/
def Descriptor.manFmask (d : Descriptor) : Nat := ones d.manW <<< d.manOff

/-- `PAD_MASK` (R32). -/
def Descriptor.padMask (d : Descriptor) : Nat :=
  ones d.totalW &&& complW d.totalW (d.signFmask ||| d.expFmask ||| d.manFmask)

/-- The descriptor of the instance. -/
def Cfg.desc (c : Cfg) : Descriptor := c.format.desc

/-- `G`, the guard-bit count (R28). -/
def Cfg.g (c : Cfg) : Nat := c.policy.guardBits

/-- `MW`, the width of the wide mantissa (R29). -/
def Cfg.mw (c : Cfg) : Nat := c.desc.mwWith c.g

/-- `IMPL_POS` (R33). -/
def Cfg.implPos (c : Cfg) : Nat := if c.desc.implicit then c.desc.manW + c.g else 0

/-- `IMPL_MASK` (R33). -/
def Cfg.implMask (c : Cfg) : Nat := if c.desc.implicit then 1 <<< (c.desc.manW + c.g) else 0

/-- `STORED_MASK` (R33). -/
def Cfg.storedMask (c : Cfg) : Nat := ones c.desc.manW <<< c.g

/-- `GUARD_MASK` (R33). -/
def Cfg.guardMask (c : Cfg) : Nat := ones c.g

/-- The configuration State.reset stands in: `E5M2` with the two default policies (R27, R30).
DESIGN CHOICE, unsafe: the spec leaves the configuration to each instance (assumption log 1). -/
def Cfg.atReset : Cfg := { format := .e5m2, policy := .trunc, ovf := .carry }

end Sys2Proof
end

