-- ==== Sys2Proof/Machine/State.lean ====
section
/-! DEFINITION. The state of one instance, the reasons a step can stop, and the state after reset (10_state.md sections 5
and 6; 00_scope.md R16). -/

namespace Sys2Proof.Machine

/-- The inputs of one command transaction (00_scope.md R16). -/
structure Transaction where
  cmd : CmdWord
  wdata : Word
  deriving DecidableEq, Repr

/-- What the host can do to an instance at run time (70_reset_and_hazards.md R132). -/
inductive HostEvent where
  /-- Issue a command transaction. -/
  | command (t : Transaction)
  /-- Assert reset between transactions. -/
  | reset
  deriving DecidableEq, Repr

/-- The outputs of one command transaction (00_scope.md R16). -/
structure Response where
  rdata : Word
  cerr : Bool
  deriving DecidableEq, Repr

/-- The state of one instance. -/
structure State where
  /-- The configuration, fixed at elaboration; the descriptor ROM reads from it (10_state.md R34, R35, R46). -/
  cfg : Cfg
  /-- `SB`, `TOTAL_W` bits (10_state.md R38). -/
  sb : Word
  /-- `US`, 1 bit (10_state.md R39). -/
  us : BitVec 1
  /-- `UE`, `EXP_W` bits (10_state.md R40). -/
  ue : Word
  /-- `UM`, `MW` bits (10_state.md R41). -/
  um : Word
  /-- The implemented bits of `ST`: 0 `MOVF`, 1 `EOVF`, 2 `CERR` (10_state.md R42). -/
  st : BitVec 3
  /-- The model's own: what the host has still to issue, oldest first. DESIGN CHOICE, safe (assumption log 2). -/
  events : List HostEvent
  /-- The model's own: the write data of the transaction being performed. DESIGN CHOICE, safe (assumption log 3). -/
  wdata : Word
  /-- The model's own: what the last event performed returned. DESIGN CHOICE, safe (assumption log 4). -/
  resp : Option Response
  deriving DecidableEq, Repr

/-- The faults. -/
inductive Fault where
  /-- Raised by `step` alone, in a state whose configuration fails a check: no such instance exists, so no command of it
  has a meaning (10_state.md R26, 60_exceptions.md R108). The failures are named in the order of R107. Safe. -/
  | configurationFailure (failures : List ConfigFailure)
  deriving DecidableEq, Repr

/-- The refusals. -/
inductive Refusal where
  /-- Raised by `exec` for an instruction without a meaning; no arm of this model raises it. Safe. -/
  | notModelled (mnemonic : String)
  deriving DecidableEq, Repr

/-- The machine right after reset (10_state.md R46, 70_reset_and_hazards.md R126): every run-time register zero. The
configuration is the model's choice (assumption log 1), and nothing has been issued yet (assumption log 2). -/
def State.reset : State :=
  { cfg := Cfg.atReset, sb := 0, us := 0, ue := 0, um := 0, st := 0, events := [], wdata := 0, resp := none }

end Sys2Proof.Machine
end

