-- ==== Sys2Proof/Machine/Flags.lean ====
section
/-! DEFINITION. The bits of `ST` and what writes them (10_state.md R42). -/

namespace Sys2Proof.Machine

/-- `ST` with the given bits: `CERR << 2 | EOVF << 1 | MOVF` (R42, 42_access.md R100). -/
def stOf (cerr eovf movf : Bool) : BitVec 3 :=
  BitVec.ofBool cerr ++ BitVec.ofBool eovf ++ BitVec.ofBool movf

/-- `ST.MOVF`. -/
def State.movf (s : State) : Bool := s.st.getLsbD 0

/-- `ST.EOVF`. -/
def State.eovf (s : State) : Bool := s.st.getLsbD 1

/-- `ST.CERR`. -/
def State.cerr (s : State) : Bool := s.st.getLsbD 2

/-- `ST.MOVF <- movf ; ST.EOVF <- eovf`, `CERR` unchanged: what every `PACK` does (R42, 41_pack.md R90). -/
def State.writePackFlags (s : State) (movf eovf : Bool) : State := { s with st := stOf s.cerr eovf movf }

/-- `ST.CERR <- 1`, the other bits unchanged (60_exceptions.md R113). -/
def State.setCerr (s : State) : State := { s with st := stOf true s.eovf s.movf }

/-- `WR ST`: all three bits from the low bits of the write data (42_access.md R102). -/
def State.writeST (s : State) (v : Word) : State :=
  { s with st := stOf (v.getLsbD 2) (v.getLsbD 1) (v.getLsbD 0) }

end Sys2Proof.Machine
end

