-- ==== Sys2Proof/Machine/Ops.lean ====
section
/-! DEFINITION. The named operations on the state: register writes, the response of a transaction, the command error, reset,
and taking a host event. The core has no exception entry and no return from one (60_exceptions.md R117, R118); the one
shared outcome of a failing command is `raiseCerr` (R113). -/

namespace Sys2Proof.Machine

/-- `SB <- v`, reduced to `TOTAL_W` bits (10_state.md R38, 00_scope.md R11). -/
def State.writeSB (s : State) (v : Nat) : State := { s with sb := zextWord (truncTo s.cfg.desc.totalW v) }

/-- `US <- v`, reduced to one bit (10_state.md R39). -/
def State.writeUS (s : State) (v : Nat) : State := { s with us := BitVec.ofNat 1 v }

/-- `UE <- v`, reduced to `EXP_W` bits (10_state.md R40). -/
def State.writeUE (s : State) (v : Nat) : State := { s with ue := zextWord (truncTo s.cfg.desc.expW v) }

/-- `UM <- v`, reduced to `MW` bits (10_state.md R41). -/
def State.writeUM (s : State) (v : Nat) : State := { s with um := zextWord (truncTo s.cfg.mw v) }

/-- `rdata = r ; cerr = 0`: the transaction completes without a command error (00_scope.md R16). -/
def State.respond (s : State) (r : Word) : State := { s with resp := some { rdata := r, cerr := false } }

/-- `raise CERR` (60_exceptions.md R113): the sticky bit, `rdata = 0 ; cerr = 1`, and nothing else. -/
def State.raiseCerr (s : State) : State := { s.setCerr with resp := some { rdata := 0, cerr := true } }

/-- The host presents its next transaction: its write data stands on the bus (00_scope.md R16). -/
def State.accept (s : State) (t : Transaction) (rest : List HostEvent) : State :=
  { s with wdata := t.wdata, events := rest }

/-- Reset between transactions (70_reset_and_hazards.md R126, R127): every run-time register zero, the configuration kept,
nothing returned (R132). -/
def State.applyReset (s : State) (rest : List HostEvent) : State :=
  { s with sb := 0, us := 0, ue := 0, um := 0, st := 0, events := rest, resp := none }

/-- The state after reset of an instance with configuration `c`, its host about to issue `es` (10_state.md R46). -/
def State.resetOf (c : Cfg) (es : List HostEvent) : State := { State.reset with cfg := c, events := es }

end Sys2Proof.Machine
end

