-- ==== Sys2Proof/Machine/Operands.lean ====
section
/-! DEFINITION. The register index space (20_memory.md R49): what each index names, what it reads as, and the causes of a
command error (10_state.md R34, R37; 42_access.md R99, R100; 60_exceptions.md R111). -/

namespace Sys2Proof.Machine

/-- The registers of the descriptor ROM (10_state.md R34). -/
inductive RomReg where
  | fmtId | totalW | signW | signOff | expW | expOff | manW | manOff | implicit | bias | policy | g | mw | ovfPolicy
  | implPos | implMask | storedMask | guardMask | signFmask | expFmask | manFmask | padMask
  deriving DecidableEq, Repr

/-- The registers of the index space (20_memory.md R49). -/
inductive Reg where
  | sb | us | ue | um | st
  | rom (r : RomReg)
  deriving DecidableEq, Repr

/-- The register an index names; none for the reserved ranges 0x05 to 0x0F and 0x26 to 0x3F (R49, R50). -/
def Reg.ofIdx (idx : RegIdx) : Option Reg :=
  match idx.toNat with
  | 0x00 => some .sb
  | 0x01 => some .us
  | 0x02 => some .ue
  | 0x03 => some .um
  | 0x04 => some .st
  | 0x10 => some (.rom .fmtId)
  | 0x11 => some (.rom .totalW)
  | 0x12 => some (.rom .signW)
  | 0x13 => some (.rom .signOff)
  | 0x14 => some (.rom .expW)
  | 0x15 => some (.rom .expOff)
  | 0x16 => some (.rom .manW)
  | 0x17 => some (.rom .manOff)
  | 0x18 => some (.rom .implicit)
  | 0x19 => some (.rom .bias)
  | 0x1A => some (.rom .policy)
  | 0x1B => some (.rom .g)
  | 0x1C => some (.rom .mw)
  | 0x1D => some (.rom .ovfPolicy)
  | 0x1E => some (.rom .implPos)
  | 0x1F => some (.rom .implMask)
  | 0x20 => some (.rom .storedMask)
  | 0x21 => some (.rom .guardMask)
  | 0x22 => some (.rom .signFmask)
  | 0x23 => some (.rom .expFmask)
  | 0x24 => some (.rom .manFmask)
  | 0x25 => some (.rom .padMask)
  | _ => none

/-- The 128-bit read value of a descriptor ROM register, a function of the configuration alone (10_state.md R34 to R37). -/
def romValue (c : Cfg) : RomReg → Word
  | .fmtId => zextWord c.format.fmtId
  | .totalW => zextWord c.desc.totalW
  | .signW => zextWord c.desc.signW
  | .signOff => zextWord c.desc.signOff
  | .expW => zextWord c.desc.expW
  | .expOff => zextWord c.desc.expOff
  | .manW => zextWord c.desc.manW
  | .manOff => zextWord c.desc.manOff
  | .implicit => zextWord (bitOf c.desc.implicit)
  | .bias => sextWord c.desc.bias
  | .policy => zextWord c.policy.code
  | .g => zextWord c.g
  | .mw => zextWord c.mw
  | .ovfPolicy => zextWord c.ovf.code
  | .implPos => zextWord c.implPos
  | .implMask => zextWord c.implMask
  | .storedMask => zextWord c.storedMask
  | .guardMask => zextWord c.guardMask
  | .signFmask => zextWord c.desc.signFmask
  | .expFmask => zextWord c.desc.expFmask
  | .manFmask => zextWord c.desc.manFmask
  | .padMask => zextWord c.desc.padMask

/-- `regval`: the 128-bit read value of a register (42_access.md R100, 20_memory.md R51). -/
def State.regval (s : State) : Reg → Word
  | .sb => s.sb
  | .us => s.us.setWidth 128
  | .ue => s.ue
  | .um => s.um
  | .st => s.st.setWidth 128
  | .rom r => romValue s.cfg r

/-- `readable(idx)` (42_access.md R99). -/
def readable (idx : RegIdx) : Bool := (Reg.ofIdx idx).isSome

/-- `writable(idx)` (42_access.md R99). -/
def writable (idx : RegIdx) : Bool :=
  match Reg.ofIdx idx with
  | some (.rom _) => false
  | some _ => true
  | none => false

/-- The causes of a command error (60_exceptions.md R111). The core stores none of them. -/
inductive CommandErrorCause where
  | illegalWord | rdReserved | wrReadonly | wrReserved
  deriving DecidableEq, Repr

/-- The cause codes of R111. -/
def CommandErrorCause.code : CommandErrorCause → Nat
  | .illegalWord => 1
  | .rdReserved => 2
  | .wrReadonly => 3
  | .wrReserved => 4

/-- The one cause a legal command has, if any (R111, R112). -/
def commandErrorCause : Instr → Option CommandErrorCause
  | .nop => none
  | .unpack => none
  | .pack => none
  | .rd idx => if readable idx then none else some .rdReserved
  | .wr idx => if writable idx then none else if readable idx then some .wrReadonly else some .wrReserved

end Sys2Proof.Machine
end

