-- ==== Sys2Proof/Machine/Access.lean ====
section
/-! DEFINITION. The register access and control commands `NOP`, `RD` and `WR` (42_access.md). -/

namespace Sys2Proof.Machine

/-- `NOP` (42_access.md R98). -/
def execNop (s : State) : Host.Outcome State Fault Refusal := .next (s.respond 0)

/-- `RD idx` (R101): the register's read value, or a command error for a reserved index. -/
def execRd (idx : RegIdx) (s : State) : Host.Outcome State Fault Refusal :=
  match Reg.ofIdx idx with
  | some r => .next (s.respond (s.regval r))
  | none => .next s.raiseCerr

/-- The write of `WR` to a register (R102): each takes the write data reduced to its width. The ROM takes no write (R103). -/
def State.writeReg (s : State) (v : Word) : Reg → Option State
  | .sb => some (s.writeSB v.toNat)
  | .us => some (s.writeUS v.toNat)
  | .ue => some (s.writeUE v.toNat)
  | .um => some (s.writeUM v.toNat)
  | .st => some (s.writeST v)
  | .rom _ => none

/-- `WR idx` (R102, R103): the write, or a command error for a read-only or reserved index. -/
def execWr (idx : RegIdx) (s : State) : Host.Outcome State Fault Refusal :=
  match (Reg.ofIdx idx).bind (s.writeReg s.wdata) with
  | some t => .next (t.respond 0)
  | none => .next s.raiseCerr

end Sys2Proof.Machine
end

