-- ==== Sys2Proof/Machine/Pack.lean ====
section
/-! DEFINITION. The packer: the rounding engine, the mantissa-overflow case, field assembly, and the command `PACK`
(41_pack.md). -/

namespace Sys2Proof.Machine

/-- What narrowing yields: the candidate stored mantissa and the round-up decision (41_pack.md R82). -/
structure Narrowed where
  cand : Nat
  up : Bool
  deriving DecidableEq, Repr

/-- What pack yields: the storage value and the two flags (R88). -/
structure Packed where
  bits : Nat
  movf : Bool
  eovf : Bool
  deriving DecidableEq, Repr

/-- The result of the mantissa-overflow case: mantissa, exponent, exponent overflow (R87). -/
structure Carried where
  man : Nat
  exp : Nat
  eovf : Bool
  deriving DecidableEq, Repr

/-- The ties-to-even decision on the guard value `g` and the candidate (R85). -/
def roundUp (g cand : Nat) : Bool := decide (g > 4) || (g == 4 && cand.testBit 0)

/-- Truncating narrowing (R83). -/
def narrowTrunc (c : Cfg) (_sign m : Nat) : Narrowed :=
  { cand := m &&& ones c.desc.manW, up := false }

/-- Ties-to-even narrowing (R84). -/
def narrowRne (c : Cfg) (_sign m : Nat) : Narrowed :=
  let cand := (m >>> 3) &&& ones c.desc.manW
  { cand := cand, up := roundUp (m &&& 0b111) cand }

/-- The rounding engine under the configured policy (R82). Neither policy reads the sign. -/
def narrow (c : Cfg) (sign m : Nat) : Narrowed :=
  match c.policy with
  | .trunc => narrowTrunc c sign m
  | .rne => narrowRne c sign m

/-- The mantissa-overflow case under the configured overflow policy (R87). -/
def overflow (c : Cfg) (cand e : Nat) : Carried :=
  match c.ovf with
  | .reference => { man := truncTo c.desc.manW (cand + 1), exp := e, eovf := false }
  | .carry =>
    let man := if c.desc.implicit then 0 else 1 <<< (c.desc.manW - 1)
    if e < ones c.desc.expW then { man := man, exp := e + 1, eovf := false }
    else { man := man, exp := e, eovf := true }

/-- The three fields ORed into an all-zero storage value at their offsets (R88, steps 1, 2 and 4). -/
def assemble (d : Descriptor) (sign e man : Nat) : Nat :=
  ((0 ||| (sign <<< d.signOff)) ||| (e <<< d.expOff)) ||| (man <<< d.manOff)

/-- `pack` (R88): a function of the three operands and the configuration, total. -/
def pack (c : Cfg) (sign e m : Nat) : Packed :=
  let n := narrow c sign m
  if n.up then
    if n.cand < ones c.desc.manW then
      { bits := assemble c.desc sign e (n.cand + 1), movf := false, eovf := false }
    else
      let o := overflow c n.cand e
      { bits := assemble c.desc sign o.exp o.man, movf := true, eovf := o.eovf }
  else
    { bits := assemble c.desc sign e n.cand, movf := false, eovf := false }

/-- `PACK` (R90): `(SB, ST.MOVF, ST.EOVF) <- pack(US, UE, UM)`, `rdata = 0`, `cerr = 0`; `ST.CERR`, `US`, `UE` and `UM` are
not written. -/
def execPack (s : State) : Host.Outcome State Fault Refusal :=
  let p := pack s.cfg s.us.toNat s.ue.toNat s.um.toNat
  .next (((s.writeSB p.bits).writePackFlags p.movf p.eovf).respond 0)

end Sys2Proof.Machine
end

