-- ==== Sys2Proof/Machine/Unpack.lean ====
section
/-! DEFINITION. The unpacker: the datapath function `unpack` and the command `UNPACK` (40_unpack.md). -/

namespace Sys2Proof.Machine

/-- The unpacked representation: sign, raw exponent, wide mantissa (40_unpack.md R72). -/
structure Unpacked where
  sign : Nat
  exp : Nat
  man : Nat
  deriving DecidableEq, Repr

/-- The inferred implicit bit: 0 for a zero exponent field, 1 for any other, all-ones included (R74). -/
def implicitBit (e : Nat) : Nat := if e ≠ 0 then 1 else 0

/-- The wide mantissa: stored bits above `G` zero guard bits, the implicit bit at `MAN_W + G` where the format has one
(R75, R76). -/
def alignMantissa (c : Cfg) (e stored : Nat) : Nat :=
  if c.desc.implicit then (stored <<< c.g) ||| (implicitBit e <<< (c.desc.manW + c.g)) else stored <<< c.g

/-- `unpack` (R72): a function of the storage value and the configuration, total. -/
def unpack (c : Cfg) (x : Nat) : Unpacked :=
  let e := field x c.desc.expOff c.desc.expW
  { sign := field x c.desc.signOff 1
    exp := e
    man := alignMantissa c e (field x c.desc.manOff c.desc.manW) }

/-- `UNPACK` (R78): `(US, UE, UM) <- unpack(SB)`, `rdata = 0`, `cerr = 0`; `SB` and `ST` are not written. -/
def execUnpack (s : State) : Host.Outcome State Fault Refusal :=
  let u := unpack s.cfg s.sb.toNat
  .next ((((s.writeUS u.sign).writeUE u.exp).writeUM u.man).respond 0)

end Sys2Proof.Machine
end

