-- ==== Sys2Proof/Machine/Fetch.lean ====
section
/-! DEFINITION. Taking the host's next event and performing it: the core's only way to a command (00_scope.md R15, R16;
20_memory.md R56). -/

namespace Sys2Proof.Machine

/-- Perform one command transaction (30_encoding.md R67, R68): a legal word is executed, an illegal one is a command error
with no other effect. -/
def State.perform (s : State) (cmd : CmdWord) : Host.Outcome State Fault Refusal :=
  match decode cmd with
  | .ok i => exec i s
  | .error _ => .next s.raiseCerr

/-- The host's next event. With none, the core holds its registers: it never initiates a transaction (R132, R125). -/
def State.serve (s : State) : Host.Outcome State Fault Refusal :=
  match s.events with
  | [] => .next s
  | .command t :: rest => (s.accept t rest).perform t.cmd
  | .reset :: rest => .next (s.applyReset rest)

/-- The host about to issue the command word `cmd` before everything else, beside the write data that stand on the bus. -/
def State.issueFirst (s : State) (cmd : CmdWord) : State :=
  { s with events := .command { cmd := cmd, wdata := s.wdata } :: s.events }

/-- The cause of the command error a word leads to, if any (60_exceptions.md R111, R112). -/
def wordErrorCause (cmd : CmdWord) : Option CommandErrorCause :=
  match decode cmd with
  | .ok i => commandErrorCause i
  | .error _ => some .illegalWord

end Sys2Proof.Machine
end

