-- ==== Sys2Proof/Machine/Elaborate.lean ====
section
/-! DEFINITION. Elaboration: the configuration checks and the failures a generator reports (10_state.md R19 to R24, R26,
R27, R30, R31, R36; 60_exceptions.md R107, R108). -/

namespace Sys2Proof

open Sys2Proof.Machine

/-- R19: no field has width 0. -/
def Descriptor.widthsNonzero (d : Descriptor) : Bool :=
  decide (0 < d.signW) && decide (0 < d.expW) && decide (0 < d.manW)

/-- R20: every field lies inside the storage word. -/
def Descriptor.fieldsInside (d : Descriptor) : Bool :=
  decide (d.signOff + d.signW ≤ d.totalW) && decide (d.expOff + d.expW ≤ d.totalW) &&
    decide (d.manOff + d.manW ≤ d.totalW)

/-- R21: the storage word is wide enough for all fields. -/
def Descriptor.totalSufficient (d : Descriptor) : Bool :=
  decide (d.signW + d.expW + d.manW ≤ d.totalW)

/-- R22: no storage bit belongs to two fields. -/
def Descriptor.fieldsDisjoint (d : Descriptor) : Bool :=
  (d.signFmask &&& d.expFmask) == 0 && (d.signFmask &&& d.manFmask) == 0 && (d.expFmask &&& d.manFmask) == 0

/-- A width in `[1,128]` (R23, R107). -/
def widthOk (w : Nat) : Bool := decide (1 ≤ w) && decide (w ≤ 128)

/-- R23: the widths the bus and the source's type selector allow. `MW` exists only where the policy is legal
(assumption log 9). -/
def Descriptor.widthsInRange (d : Descriptor) (p : Option RoundingPolicy) : Bool :=
  widthOk d.totalW && widthOk d.expW && widthOk d.manW &&
    (match p with
      | some q => widthOk (d.mwWith q.guardBits)
      | none => true)

/-- R24: the sign field has one bit. -/
def Descriptor.signOneBit (d : Descriptor) : Bool := d.signW == 1

/-- R36: the bias fits 128 bits of two's complement. -/
def Descriptor.biasInRange (d : Descriptor) : Bool :=
  decide (-(2 ^ 127) ≤ d.bias) && decide (d.bias ≤ 2 ^ 127 - 1)

/-- The failure's name where its check does not hold. -/
def failUnless (ok : Bool) (f : ConfigFailure) : List ConfigFailure := if ok then [] else [f]

/-- The failures of R107's first six rows: those of the descriptor's layout. -/
def Descriptor.layoutFailures (d : Descriptor) (p : Option RoundingPolicy) : List ConfigFailure :=
  failUnless d.widthsNonzero .zeroWidth ++ failUnless d.fieldsInside .fieldBounds ++
    failUnless d.totalSufficient .totalTooSmall ++ failUnless d.fieldsDisjoint .overlap ++
    failUnless (d.widthsInRange p) .widthRange ++ failUnless d.signOneBit .signWidth

/-- The failures of a configuration whose policies and format identifier are legal. -/
def Cfg.failures (c : Cfg) : List ConfigFailure :=
  c.desc.layoutFailures (some c.policy) ++ failUnless c.desc.biasInRange .biasRange

/-- The rounding policy a parameter value names (R27, R37). -/
def RoundingPolicy.ofCode : Nat → Option RoundingPolicy
  | 0 => some .trunc
  | 1 => some .rne
  | _ => none

/-- The overflow policy a parameter value names (R30, R37). -/
def OverflowPolicy.ofCode : Nat → Option OverflowPolicy
  | 0 => some .reference
  | 1 => some .carry
  | _ => none

/-- The format a request names (R31); a reserved `FMT_ID` names none. -/
def ConfigRequest.format (r : ConfigRequest) : Option Format :=
  match r.fmtId with
  | 0 => some (.custom r.custom)
  | 1 => some .e5m2
  | 2 => some .e4m3
  | 3 => some .binary16
  | 4 => some .binary32
  | 5 => some .binary64
  | _ => none

/-- Every failing condition of a request, in the order of R107's table. A reserved `FMT_ID` has no descriptor to check
(assumption log 9). -/
def ConfigRequest.failures (r : ConfigRequest) : List ConfigFailure :=
  let p := RoundingPolicy.ofCode r.policy
  let d := r.format.map Format.desc
  (match d with
    | some d => d.layoutFailures p
    | none => []) ++
    failUnless p.isSome .policy ++ failUnless (OverflowPolicy.ofCode r.ovfPolicy).isSome .ovfPolicy ++
    failUnless d.isSome .fmtId ++
    (match d with
      | some d => failUnless d.biasInRange .biasRange
      | none => [])

/-- Elaboration: an instance's configuration, or the failures (R26, R107, R132). -/
def ConfigRequest.elaborate (r : ConfigRequest) : Except (List ConfigFailure) Cfg :=
  match r.failures, r.format, RoundingPolicy.ofCode r.policy, OverflowPolicy.ofCode r.ovfPolicy with
  | [], some f, some p, some o => .ok { format := f, policy := p, ovf := o }
  | fs, _, _, _ => .error fs

end Sys2Proof
end

