-- ==== Sys2Proof/WellFormed.lean ====
section
/-! DEFINITION. Well-formedness. Of a command there is nothing left to check: every 6-bit `IDX` makes a legal `RD` or `WR`
word (30_encoding.md R66), and which registers exist is decided when the command is performed. Of a configuration it is
that every check of 10_state.md R26 holds (60_exceptions.md R108). -/

namespace Sys2Proof

/-- The configuration passes every check of R19 to R24 and R36; those of R27, R30 and R31 hold by its type. -/
abbrev Cfg.Wf (c : Cfg) : Prop := c.failures = []

end Sys2Proof
end

