-- ==== Sys2Proof/Machine/Step.lean ====
section
/-! DEFINITION. One step: one host event, performed to completion (20_memory.md R54, R56). -/

namespace Sys2Proof.Machine

/-- One step of an instance. A configuration that fails a check has no step (60_exceptions.md R108, assumption log 8). -/
def step (s : State) : Host.Outcome State Fault Refusal :=
  if s.cfg.Wf then s.serve else .fault (.configurationFailure s.cfg.failures)

/-- `s` with the instruction of a table row as the host's next command. The core fetches nothing from memory (10_state.md
R44): its next instruction is the head of what the host has to issue (assumption log 2), with the write data that stand on the
bus (assumption log 3). -/
def State.withFetchWord (s : State) (nbits w : Nat) : State := s.issueFirst (tableCmdWord nbits w)

end Sys2Proof.Machine
end

