-- ==== Sys2Proof/Machine/Assembler.lean ====
section
/-! DEFINITION. Assembler text: the commands, the register names and the pseudo-commands, as the transactions a host issues
for them (30_encoding.md R69 to R71). No part of the core; lexical details are in assumption log 10. -/

namespace Sys2Proof.Machine

/-- One line of assembler text (R69, R70). -/
inductive AsmLine where
  /-- A line of spaces or of a comment alone. DESIGN CHOICE, safe for the core:
  R69 does not say that a line may hold no command (assumption log 10). -/
  | blank
  | nop
  | unpack
  | pack
  | rd (idx : RegIdx)
  | wr (idx : RegIdx) (v : Word)
  | clrst
  | ldunpack (v : Word)
  | roundtrip
  | ldpack (s e m : Word)
  deriving DecidableEq, Repr

/-- Why a line does not assemble. -/
inductive AsmError where
  | unknownCommand
  | badRegister
  | badValue
  deriving DecidableEq, Repr

/-- A command that takes no write data: whatever stands beside it is ignored (R64). Zero is a DESIGN CHOICE,
safe for the core (assumption log 10). -/
def issuePlain (i : Instr) : Transaction := { cmd := encode i, wdata := 0 }

/-- A register write. -/
def issueWrite (idx : RegIdx) (v : Word) : Transaction := { cmd := encode (.wr idx), wdata := v }

/-- The transactions of a line, the pseudo-commands expanded (R70); none for a line that holds no command (assumption log 10). -/
def AsmLine.expand : AsmLine → List Transaction
  | .blank => []
  | .nop => [issuePlain .nop]
  | .unpack => [issuePlain .unpack]
  | .pack => [issuePlain .pack]
  | .rd idx => [issuePlain (.rd idx)]
  | .wr idx v => [issueWrite idx v]
  | .clrst => [issueWrite 0x04 0]
  | .ldunpack v => [issueWrite 0x00 v, issuePlain .unpack]
  | .roundtrip => [issuePlain .unpack, issuePlain .pack]
  | .ldpack s e m => [issueWrite 0x01 s, issueWrite 0x02 e, issueWrite 0x03 m, issuePlain .pack]

/-- The register names and their indices (R71). -/
def registerNames : List (String × RegIdx) :=
  [("sb", 0x00), ("us", 0x01), ("ue", 0x02), ("um", 0x03), ("st", 0x04),
   ("fmt_id", 0x10), ("total_w", 0x11), ("sign_w", 0x12), ("sign_off", 0x13), ("exp_w", 0x14), ("exp_off", 0x15),
   ("man_w", 0x16), ("man_off", 0x17), ("implicit", 0x18), ("bias", 0x19), ("policy", 0x1A), ("g", 0x1B), ("mw", 0x1C),
   ("ovf_policy", 0x1D), ("impl_pos", 0x1E), ("impl_mask", 0x1F), ("stored_mask", 0x20), ("guard_mask", 0x21),
   ("sign_fmask", 0x22), ("exp_fmask", 0x23), ("man_fmask", 0x24), ("pad_mask", 0x25)]

/-- The value of a digit, given in lower case. -/
def digitValue (c : Char) : Option Nat :=
  if '0' ≤ c ∧ c ≤ '9' then some (c.toNat - '0'.toNat)
  else if 'a' ≤ c ∧ c ≤ 'f' then some (c.toNat - 'a'.toNat + 10)
  else none

/-- Digits in a base, most significant first, after the value `acc` of those already read. -/
def readDigits (base acc : Nat) : List Char → Option Nat
  | [] => some acc
  | c :: cs =>
    match digitValue c with
    | some d => if d < base then readDigits base (base * acc + d) cs else none
    | none => none

/-- A number of at least one digit. -/
def readNumber (base : Nat) (cs : List Char) : Option Nat := if cs.isEmpty then none else readDigits base 0 cs

/-- A literal: `0x` hexadecimal, `0b` binary, else decimal (R69). -/
def readLiteral : List Char → Option Nat
  | '0' :: 'x' :: cs => readNumber 16 cs
  | '0' :: 'b' :: cs => readNumber 2 cs
  | cs => readNumber 10 cs

/-- A write-data value: a literal that fits the 128-bit bus (R69).
DESIGN CHOICE, safe for the core: a larger one does not assemble (assumption log 10). -/
def readValue (cs : List Char) : Except AsmError Word :=
  match readLiteral cs with
  | some n => if n < 2 ^ busW then .ok (BitVec.ofNat 128 n) else .error .badValue
  | none => .error .badValue

/-- A register: a name, or a raw index (R69).
DESIGN CHOICE, safe for the core: exactly two hexadecimal digits, below 0x40 (assumption log 10). -/
def readRegister : List Char → Except AsmError RegIdx
  | ['#', '0', 'x', a, b] =>
    match readNumber 16 [a, b] with
    | some n => if n < 64 then .ok (BitVec.ofNat 6 n) else .error .badRegister
    | none => .error .badRegister
  | cs =>
    match registerNames.find? fun p => p.1.toList == cs with
    | some p => .ok p.2
    | none => .error .badRegister

/-- The token read so far, before the others. -/
def flushToken (cur : List Char) (rest : List (List Char)) : List (List Char) :=
  if cur.isEmpty then rest else cur :: rest

/-- The tokens of a line in lower case; `;` starts a comment (R69). DESIGN CHOICE, safe for the core: whitespace separates tokens, and a comma
is a token of its own (assumption log 10). -/
def tokens (cur : List Char) : List Char → List (List Char)
  | [] => flushToken cur []
  | c :: cs =>
    if c = ';' then flushToken cur []
    else if c.isWhitespace then flushToken cur (tokens [] cs)
    else if c = ',' then flushToken cur ([','] :: tokens [] cs)
    else tokens (cur ++ [c.toLower]) cs

/-- The line whose command word is `cmd` and whose operands, without their commas, are `ops` (R69, R70). -/
def readCommand (cmd : String) (ops : List (List Char)) : Except AsmError AsmLine :=
  match cmd, ops with
  | "nop", [] => .ok .nop
  | "unpack", [] => .ok .unpack
  | "pack", [] => .ok .pack
  | "clrst", [] => .ok .clrst
  | "roundtrip", [] => .ok .roundtrip
  | "rd", [r] => do return .rd (← readRegister r)
  | "wr", [r, v] => do return .wr (← readRegister r) (← readValue v)
  | "ldunpack", [v] => do return .ldunpack (← readValue v)
  | "ldpack", [s, e, m] => do return .ldpack (← readValue s) (← readValue e) (← readValue m)
  | _, _ => .error .unknownCommand

/-- The operands between single commas; none where a comma is missing or stands alone.
DESIGN CHOICE, safe for the core (assumption log 10). -/
def splitOperands : List (List Char) → Option (List (List Char))
  | [] => some []
  | [a] => if a = [','] then none else some [a]
  | a :: b :: rest =>
    if a ≠ [','] ∧ b = [','] ∧ rest ≠ [] then (splitOperands rest).map (a :: ·) else none

/-- One line of assembler text: one command, its case ignored (R69). DESIGN CHOICE, safe for the core: a blank or comment-only line is allowed and
stands for no transaction, where R69 says only `one command per line` and that `;` starts a comment (assumption log 10). -/
def readLine (line : List Char) : Except AsmError AsmLine :=
  match tokens [] line with
  | [] => .ok .blank
  | cmd :: ops =>
    match splitOperands ops with
    | some os => readCommand (String.ofList cmd) os
    | none => .error .unknownCommand

/-- The transactions a host issues for lines of assembler text, in their order. DESIGN CHOICE, safe for the core: the text comes split into lines,
and one line that does not assemble refuses the whole text (assumption log 10). -/
def assembleText (lines : List String) : Except AsmError (List Transaction) := do
  let parsed ← lines.mapM fun l => readLine l.toList
  return parsed.flatMap AsmLine.expand

end Sys2Proof.Machine
end

