-- ==== Sys2Proof/Machine/Instances.lean ====
section
/-! DEFINITION. Several instances side by side (20_memory.md R61, 60_exceptions.md R123): each its own state, nothing
shared. Which instance moves next is the environment's choice, so it is an argument (assumption log 11). -/

namespace Sys2Proof.Machine

/-- Instance `k` performs its next event; the other instances are untouched. An instance that cannot step stays as
it is: DESIGN CHOICE, safe (assumption log 11). -/
def stepInstance (k : Nat) (fleet : List State) : List State :=
  fleet.modify k fun s =>
    match step s with
    | .next t => t
    | .fault _ => s
    | .refused _ => s

end Sys2Proof.Machine
end

