-- ==== Sys2Proof/Safety.lean ====
section
/-! DEFINITION. What a good state is, and the other words the statements use: legal layouts, significant bits, a storage word put
together from its fields, the outcome of a command error. They are written from the spec's own text, apart from the datapath's
definitions. -/

namespace Sys2Proof

open Sys2Proof.Machine

/-- Bit `i` lies in the field at offset `off` of width `w` (00_scope.md R10). -/
abbrev inField (off w i : Nat) : Prop := off ≤ i ∧ i < off + w

/-- No storage bit belongs to two of the three fields (10_state.md R22). -/
def Descriptor.NoSharedBit (d : Descriptor) : Prop :=
  ∀ i, ¬(inField d.signOff d.signW i ∧ inField d.expOff d.expW i) ∧
    ¬(inField d.signOff d.signW i ∧ inField d.manOff d.manW i) ∧
    ¬(inField d.expOff d.expW i ∧ inField d.manOff d.manW i)

/-- The conditions of 10_state.md R19 to R24 and R36 on the descriptor of a configuration, in the spec's own terms. -/
def Cfg.Legal (c : Cfg) : Prop :=
  (0 < c.desc.signW ∧ 0 < c.desc.expW ∧ 0 < c.desc.manW) ∧
  (c.desc.signOff + c.desc.signW ≤ c.desc.totalW ∧ c.desc.expOff + c.desc.expW ≤ c.desc.totalW ∧
    c.desc.manOff + c.desc.manW ≤ c.desc.totalW) ∧
  c.desc.signW + c.desc.expW + c.desc.manW ≤ c.desc.totalW ∧
  c.desc.NoSharedBit ∧
  (1 ≤ c.desc.totalW ∧ c.desc.totalW ≤ 128 ∧ c.desc.expW ≤ 128 ∧ c.desc.manW ≤ 128 ∧ c.mw ≤ 128) ∧
  c.desc.signW = 1 ∧
  (-(2 ^ 127) ≤ c.desc.bias ∧ c.desc.bias ≤ 2 ^ 127 - 1)

/-- The mask of the significant bits, the complement of the padding within the storage word (00_scope.md R13). -/
def Descriptor.significant (d : Descriptor) : Nat := complW d.totalW d.padMask

/-- A storage word from its fields, each at its offset, every other bit zero (41_pack.md R88), on bit vectors. -/
def Descriptor.placed (d : Descriptor) (sign : BitVec 1) (e m : Word) : Word :=
  (sign.setWidth 128 <<< d.signOff) ||| (e <<< d.expOff) ||| (m <<< d.manOff)

end Sys2Proof

namespace Sys2Proof.Machine

/-- The invariant of every instance: its configuration passes its checks (10_state.md R26) and every register fits its
width (10_state.md R38, R40, R41). -/
abbrev State.Wf (s : State) : Prop :=
  s.cfg.Wf ∧ s.sb.toNat < 2 ^ s.cfg.desc.totalW ∧ s.ue.toNat < 2 ^ s.cfg.desc.expW ∧ s.um.toNat < 2 ^ s.cfg.mw

/-- The stored candidate in a wide mantissa with three guard bits (41_pack.md R84). -/
def State.candidate (s : State) : Nat := s.um.toNat / 8 % 2 ^ s.cfg.desc.manW

/-- The guard value of a wide mantissa with three guard bits (41_pack.md R84). -/
def State.guardValue (s : State) : Nat := s.um.toNat % 8

/-- `R` with a command error performed on it: only `ST.CERR` and the response change (60_exceptions.md R113). -/
def State.withCommandError (s : State) : State :=
  { s with st := s.st ||| 0b100, resp := some { rdata := 0, cerr := true } }

/-- The run-time registers of two states are the same. -/
def State.SameRegisters (s t : State) : Prop :=
  s.cfg = t.cfg ∧ s.sb = t.sb ∧ s.us = t.us ∧ s.ue = t.ue ∧ s.um = t.um ∧ s.st = t.st

/-- The host's next event is a command transaction. -/
def State.NextCommand (s : State) (t : Transaction) : Prop := ∃ rest, s.events = .command t :: rest

/-- The host's next event is a reset. -/
def State.NextReset (s : State) : Prop := ∃ rest, s.events = .reset :: rest

end Sys2Proof.Machine
end

