-- ==== Sys2Proof/Certificates/Slice0/Obligations.lean ====
section
/-! DEFINITION. The statements for the provers. Each docstring names the rule of spec/ it formalises. A premise `s.Wf` is the
invariant that `StepKeepsTheInvariant` states; a premise `c.Wf` is 10_state.md R26. -/

open Sys2Proof Sys2Proof.Machine

/-! ## Encoding -/

/-- 30_encoding.md R66, R67, R68: a word decodes to a command exactly when it is that command's word. -/
def Obligations.DecodeAndEncodeAgree : Prop :=
  ∀ (w : CmdWord) (i : Instr), decode w = .ok i ↔ encode i = w

/-- 30_encoding.md R66: the legal words, spelled out. -/
def Obligations.ExactlyTheListedWordsAreLegal : Prop :=
  ∀ w : CmdWord,
    (decode w = .ok .nop ↔ w = 0x0000) ∧
    (decode w = .ok .unpack ↔ w = 0x1000) ∧
    (decode w = .ok .pack ↔ w = 0x2000) ∧
    (∀ idx : RegIdx, decode w = .ok (.rd idx) ↔ w.toNat = 0x3000 + idx.toNat) ∧
    (∀ idx : RegIdx, decode w = .ok (.wr idx) ↔ w.toNat = 0x4000 + idx.toNat)

/-- 30_encoding.md R71: the words of the named registers, as the table has them, are the reads and the writes of those
registers, and the names assemble to them. -/
def Obligations.NamedRegisterWordsDecodeAsListed : Prop :=
  ∀ row ∈ ([("sb", 0x00, 0x3000, 0x4000), ("us", 0x01, 0x3001, 0x4001), ("ue", 0x02, 0x3002, 0x4002),
      ("um", 0x03, 0x3003, 0x4003), ("st", 0x04, 0x3004, 0x4004), ("fmt_id", 0x10, 0x3010, 0x4010),
      ("total_w", 0x11, 0x3011, 0x4011), ("sign_w", 0x12, 0x3012, 0x4012), ("sign_off", 0x13, 0x3013, 0x4013),
      ("exp_w", 0x14, 0x3014, 0x4014), ("exp_off", 0x15, 0x3015, 0x4015), ("man_w", 0x16, 0x3016, 0x4016),
      ("man_off", 0x17, 0x3017, 0x4017), ("implicit", 0x18, 0x3018, 0x4018), ("bias", 0x19, 0x3019, 0x4019),
      ("policy", 0x1A, 0x301A, 0x401A), ("g", 0x1B, 0x301B, 0x401B), ("mw", 0x1C, 0x301C, 0x401C),
      ("ovf_policy", 0x1D, 0x301D, 0x401D), ("impl_pos", 0x1E, 0x301E, 0x401E), ("impl_mask", 0x1F, 0x301F, 0x401F),
      ("stored_mask", 0x20, 0x3020, 0x4020), ("guard_mask", 0x21, 0x3021, 0x4021), ("sign_fmask", 0x22, 0x3022, 0x4022),
      ("exp_fmask", 0x23, 0x3023, 0x4023), ("man_fmask", 0x24, 0x3024, 0x4024), ("pad_mask", 0x25, 0x3025, 0x4025)] :
      List (String × RegIdx × CmdWord × CmdWord)),
    decode row.2.2.1 = .ok (.rd row.2.1) ∧ decode row.2.2.2 = .ok (.wr row.2.1) ∧
      readRegister row.1.toList = .ok row.2.1 ∧
      (wordErrorCause row.2.2.2).isSome = decide (0x10 ≤ row.2.1.toNat)

/-- 30_encoding.md R70: the expansions of the pseudo-commands. -/
def Obligations.PseudoCommandsExpandAsListed : Prop :=
  ∀ s e m v : Word,
    AsmLine.clrst.expand = (AsmLine.wr 0x04 0).expand ∧
    (AsmLine.ldunpack v).expand = (AsmLine.wr 0x00 v).expand ++ AsmLine.unpack.expand ∧
    AsmLine.roundtrip.expand = AsmLine.unpack.expand ++ AsmLine.pack.expand ∧
    (AsmLine.ldpack s e m).expand =
      (AsmLine.wr 0x01 s).expand ++ (AsmLine.wr 0x02 e).expand ++ (AsmLine.wr 0x03 m).expand ++ AsmLine.pack.expand

/-! ## Configuration -/

/-- 10_state.md R28, R29: `G` and `MW`. -/
def Obligations.GuardBitsAndWideMantissaWidth : Prop :=
  ∀ c : Cfg, (c.policy = .trunc → c.g = 0) ∧ (c.policy = .rne → c.g = 3) ∧
    c.mw = c.desc.manW + (if c.desc.implicit = true then 1 else 0) + c.g

/-- 10_state.md R31: the predefined layouts, each legal under every policy, and the reserved identifiers refused. -/
def Obligations.PredefinedFormatsHaveTheListedLayouts : Prop :=
  (∀ row ∈ ([(.e5m2, 1, 8, 7, 5, 2, 2, 15), (.e4m3, 2, 8, 7, 4, 3, 3, 7), (.binary16, 3, 16, 15, 5, 10, 10, 15),
      (.binary32, 4, 32, 31, 8, 23, 23, 127), (.binary64, 5, 64, 63, 11, 52, 52, 1023)] :
      List (Format × Nat × Nat × Nat × Nat × Nat × Nat × Int)),
    row.1.fmtId = row.2.1 ∧ row.1.desc.totalW = row.2.2.1 ∧
    row.1.desc.signW = 1 ∧ row.1.desc.signOff = row.2.2.2.1 ∧
    row.1.desc.expW = row.2.2.2.2.1 ∧ row.1.desc.expOff = row.2.2.2.2.2.1 ∧
    row.1.desc.manW = row.2.2.2.2.2.2.1 ∧ row.1.desc.manOff = 0 ∧ row.1.desc.implicit = true ∧
    row.1.desc.bias = row.2.2.2.2.2.2.2 ∧
    ∀ p o, (Cfg.mk row.1 p o).Wf) ∧
  (∀ r : ConfigRequest, 1 ≤ r.fmtId → r.fmtId ≤ 5 → ∃ f, r.format = some f ∧ f.fmtId = r.fmtId ∧ ∀ d, f ≠ .custom d) ∧
  (∀ r : ConfigRequest, r.fmtId = 0 → r.format = some (.custom r.custom)) ∧
  (∀ r : ConfigRequest, 6 ≤ r.fmtId → r.fmtId ≤ 255 → .fmtId ∈ r.failures ∧ ∀ c, r.elaborate ≠ .ok c)

/-- 10_state.md R25, R36: the default bias, and that it fits the bias register of every legal configuration. -/
def Obligations.DefaultBiasIsInRange : Prop :=
  ∀ c : Cfg, c.desc.givenBias = none →
    c.desc.bias = 2 ^ (c.desc.expW - 1) - 1 ∧
    (1 ≤ c.desc.expW → c.desc.expW ≤ 128 → 0 ≤ c.desc.bias ∧ c.desc.bias ≤ 2 ^ 127 - 1)

/-- 10_state.md R19 to R24, R26, R36; 60_exceptions.md R108: the checks accept exactly the legal configurations. That no two
fields share a bit is stated bit by bit. -/
def Obligations.ChecksAcceptExactlyLegalConfigurations : Prop :=
  ∀ c : Cfg, c.Wf ↔ c.Legal

/-- 10_state.md R26, R27, R30, R31; 60_exceptions.md R107: elaboration yields an instance exactly for the requests whose
parameters are legal, and every legal configuration is an instance of some request. The numbers of the parameter values are the
model's (assumption log 9). -/
def Obligations.ElaborationYieldsExactlyLegalInstances : Prop :=
  (∀ (r : ConfigRequest) (c : Cfg), r.elaborate = .ok c ↔
    r.format = some c.format ∧ r.policy = c.policy.code ∧ r.ovfPolicy = c.ovf.code ∧ c.Legal) ∧
  (∀ c : Cfg, c.Legal → ∃ r : ConfigRequest, r.elaborate = .ok c)

/-- 60_exceptions.md R107: a failing request reports every failing condition of the table, in the table's order, each once.
Which conditions a request with an illegal policy or format identifier has is the model's (assumption log 9). -/
def Obligations.EveryFailingConditionIsReportedInOrder : Prop :=
  ∀ r : ConfigRequest,
    r.failures.Sublist [.zeroWidth, .fieldBounds, .totalTooSmall, .overlap, .widthRange, .signWidth, .policy, .ovfPolicy,
      .fmtId, .biasRange] ∧
    ((∃ c, r.elaborate = .ok c) ↔ r.failures = []) ∧
    (r.failures ≠ [] → r.elaborate = .error r.failures) ∧
    (.policy ∈ r.failures ↔ r.policy ≠ 0 ∧ r.policy ≠ 1) ∧
    (.ovfPolicy ∈ r.failures ↔ r.ovfPolicy ≠ 0 ∧ r.ovfPolicy ≠ 1) ∧
    (.fmtId ∈ r.failures ↔ 6 ≤ r.fmtId) ∧
    ∀ c : Cfg, r.format = some c.format → r.policy = c.policy.code →
      (.zeroWidth ∈ r.failures ↔ c.desc.signW = 0 ∨ c.desc.expW = 0 ∨ c.desc.manW = 0) ∧
      (.fieldBounds ∈ r.failures ↔ c.desc.totalW < c.desc.signOff + c.desc.signW ∨
        c.desc.totalW < c.desc.expOff + c.desc.expW ∨ c.desc.totalW < c.desc.manOff + c.desc.manW) ∧
      (.totalTooSmall ∈ r.failures ↔ c.desc.totalW < c.desc.signW + c.desc.expW + c.desc.manW) ∧
      (.overlap ∈ r.failures ↔ ¬ c.desc.NoSharedBit) ∧
      (.widthRange ∈ r.failures ↔ ∃ w ∈ [c.desc.totalW, c.desc.expW, c.desc.manW, c.mw], w < 1 ∨ 128 < w) ∧
      (.signWidth ∈ r.failures ↔ c.desc.signW ≠ 1) ∧
      (.biasRange ∈ r.failures ↔ c.desc.bias < -(2 ^ 127) ∨ 2 ^ 127 - 1 < c.desc.bias)

/-- 10_state.md R32: the storage-field masks and the padding mask, bit by bit. -/
def Obligations.StorageMasksMarkTheFields : Prop :=
  ∀ c : Cfg, c.Wf → ∀ i,
    (c.desc.signFmask.testBit i = true ↔ inField c.desc.signOff c.desc.signW i) ∧
    (c.desc.expFmask.testBit i = true ↔ inField c.desc.expOff c.desc.expW i) ∧
    (c.desc.manFmask.testBit i = true ↔ inField c.desc.manOff c.desc.manW i) ∧
    (c.desc.padMask.testBit i = true ↔ i < c.desc.totalW ∧ ¬ inField c.desc.signOff c.desc.signW i ∧
      ¬ inField c.desc.expOff c.desc.expW i ∧ ¬ inField c.desc.manOff c.desc.manW i)

/-- 10_state.md R33: the unpacked-mantissa helpers cover the wide mantissa and are pairwise disjoint. -/
def Obligations.MantissaMasksPartitionTheWideMantissa : Prop :=
  ∀ c : Cfg, c.Wf →
    (c.desc.implicit = true → c.implPos = c.desc.manW + c.g ∧ c.implMask = 2 ^ (c.desc.manW + c.g)) ∧
    (c.desc.implicit = false → c.implPos = 0 ∧ c.implMask = 0) ∧
    (∀ i, c.storedMask.testBit i = true ↔ inField c.g c.desc.manW i) ∧
    c.guardMask = 2 ^ c.g - 1 ∧
    c.implMask ||| c.storedMask ||| c.guardMask = 2 ^ c.mw - 1 ∧
    c.implMask &&& c.storedMask = 0 ∧ c.implMask &&& c.guardMask = 0 ∧ c.storedMask &&& c.guardMask = 0

/-! ## The unpack datapath -/

/-- 40_unpack.md R77, 10_state.md R47: guard bits are zero after unpack and after reset, and after a write of `UM` exactly
when the written value has zero guard bits. -/
def Obligations.GuardBitsAreZeroAfterUnpack : Prop :=
  (∀ (c : Cfg) (x : Nat), (unpack c x).man &&& c.guardMask = 0) ∧
  (∀ s : State, s.Wf → ∃ t, exec .unpack s = .next t ∧ t.um.toNat &&& t.cfg.guardMask = 0) ∧
  (∀ (c : Cfg) (es : List HostEvent), (State.resetOf c es).um.toNat &&& c.guardMask = 0) ∧
  (∀ s : State, s.Wf → ∃ t, exec (.wr 0x03) s = .next t ∧
    (t.um.toNat &&& t.cfg.guardMask = 0 ↔ s.wdata.toNat &&& s.cfg.guardMask = 0))

/-- 40_unpack.md R81: the four laws of unpack. -/
def Obligations.UnpackObeysItsLaws : Prop :=
  ∀ c : Cfg, c.Wf →
    (∀ x, c.desc.implicit = true → ((unpack c x).man.testBit (c.mw - 1) = true ↔ (unpack c x).exp ≠ 0)) ∧
    (∀ x, ((unpack c x).man >>> c.g) &&& ones c.desc.manW = field x c.desc.manOff c.desc.manW) ∧
    (∀ x y, x < 2 ^ c.desc.totalW → y < 2 ^ c.desc.totalW →
      (unpack c x = unpack c y ↔ x &&& c.desc.significant = y &&& c.desc.significant)) ∧
    (Cfg.mk c.format .rne c.ovf).mw = (Cfg.mk c.format .trunc c.ovf).mw + 3

/-- 40_unpack.md R80: the corner cases of unpack. -/
def Obligations.UnpackCornerCases : Prop :=
  ∀ c : Cfg, c.Wf →
    (∀ x, x < 2 ^ c.desc.totalW → unpack c x = unpack c (x &&& c.desc.significant)) ∧
    unpack c 0 = { sign := 0, exp := 0, man := 0 } ∧
    (∀ x, (unpack c x).exp = 0 → (unpack c x).man = field x c.desc.manOff c.desc.manW <<< c.g) ∧
    (∀ x, c.desc.implicit = true → (unpack c x).exp = 2 ^ c.desc.expW - 1 →
      (unpack c x).man.testBit (c.mw - 1) = true) ∧
    unpack c (2 ^ c.desc.totalW - 1) =
      { sign := 1, exp := 2 ^ c.desc.expW - 1
        man := if c.desc.implicit = true then (2 ^ c.mw - 1) &&& complW c.mw c.guardMask
          else (2 ^ c.desc.manW - 1) <<< c.g } ∧
    (∀ s : State, s.cfg = c → ∃ t, exec .unpack s = .next t ∧ exec .unpack t = .next t) ∧
    (∀ s t : State, s.cfg = c → t.cfg = c → s.sb = t.sb →
      ∃ u v, exec .unpack s = .next u ∧ exec .unpack t = .next v ∧ u.us = v.us ∧ u.ue = v.ue ∧ u.um = v.um)

/-! ## The pack datapath -/

/-- 41_pack.md R89: whatever is packed, every padding bit of the result is zero, and the result fits the storage word. -/
def Obligations.PackIsCanonical : Prop :=
  (∀ c : Cfg, c.Wf → ∀ sign e m, sign < 2 → e < 2 ^ c.desc.expW → m < 2 ^ c.mw →
    (pack c sign e m).bits &&& c.desc.padMask = 0 ∧ (pack c sign e m).bits < 2 ^ c.desc.totalW) ∧
  (∀ s : State, s.Wf → ∃ t, exec .pack s = .next t ∧ t.sb.toNat &&& t.cfg.desc.padMask = 0)

/-- 41_pack.md R95: the round-trip law, for every configuration, both rounding policies and both overflow policies; and as
commands: `UNPACK` then `PACK` clears the padding bits of `SB` and the two flags and changes nothing else that `UNPACK` left. -/
def Obligations.PackOfUnpackKeepsTheSignificantBits : Prop :=
  (∀ c : Cfg, c.Wf → ∀ x, x < 2 ^ c.desc.totalW →
    pack c (unpack c x).sign (unpack c x).exp (unpack c x).man =
      { bits := x &&& c.desc.significant, movf := false, eovf := false }) ∧
  (∀ s : State, s.Wf → ∃ t, exec .unpack s = .next t ∧ t.sb = s.sb ∧ t.st = s.st ∧
    exec .pack t = .next { t with
      sb := s.sb &&& BitVec.ofNat 128 s.cfg.desc.significant
      st := s.st &&& 0b100
      resp := some { rdata := 0, cerr := false } })

/-- 40_unpack.md R72, 41_pack.md R88: the other direction. A value whose guard bits are zero and whose implicit bit agrees
with its exponent comes back from pack and unpack unchanged. -/
def Obligations.UnpackOfPackKeepsConsistentValues : Prop :=
  ∀ c : Cfg, c.Wf → ∀ sign e m, sign < 2 → e < 2 ^ c.desc.expW → m < 2 ^ c.mw →
    m &&& c.guardMask = 0 → (c.desc.implicit = true → (m.testBit (c.mw - 1) = true ↔ e ≠ 0)) →
    unpack c (pack c sign e m).bits = { sign := sign, exp := e, man := m }

/-- 41_pack.md R97, R83, R84: ties-to-even rounds the stored and guard bits, read as one number, to the nearest multiple of
8, and a tie to an even one; truncation is exact; neither looks at the sign. -/
def Obligations.RoundingIsToNearestEven : Prop :=
  (∀ c : Cfg, c.policy = .rne → 0 < c.desc.manW → ∀ sign m,
    let v := m % 2 ^ (c.desc.manW + 3)
    let r := (narrow c sign m).cand + (if (narrow c sign m).up = true then 1 else 0)
    8 * r ≤ v + 4 ∧ v ≤ 8 * r + 4 ∧ (8 * r = v + 4 ∨ v = 8 * r + 4 → r % 2 = 0)) ∧
  (∀ c : Cfg, c.policy = .trunc → ∀ sign m,
    narrow c sign m = { cand := m % 2 ^ c.desc.manW, up := false }) ∧
  (∀ (c : Cfg) (sign sign' m : Nat), narrow c sign m = narrow c sign' m)

/-- 41_pack.md R92: the corner cases of pack. -/
def Obligations.PackCornerCases : Prop :=
  ∀ c : Cfg, c.Wf → ∀ sign e m, sign < 2 → e < 2 ^ c.desc.expW → m < 2 ^ c.mw →
    (c.desc.implicit = true → pack c sign e m = pack c sign e (m % 2 ^ (c.mw - 1))) ∧
    (c.policy = .trunc →
      pack c sign e m =
        { bits := (sign <<< c.desc.signOff) ||| (e <<< c.desc.expOff) ||| ((m % 2 ^ c.desc.manW) <<< c.desc.manOff)
          movf := false, eovf := false }) ∧
    (m &&& c.guardMask = 0 → (narrow c sign m).up = false ∧ (pack c sign e m).movf = false) ∧
    (c.policy = .rne → (m / 8) % 2 ^ c.desc.manW = 2 ^ c.desc.manW - 1 →
      ((pack c sign e m).movf = true ↔ 4 ≤ m % 8)) ∧
    (c.policy = .rne → c.desc.manW = 1 → (narrow c sign m).cand ≤ 1 ∧
      ((m / 8) % 2 = 0 → m % 8 = 4 → (narrow c sign m).up = false) ∧
      ((pack c sign e m).movf = true ↔ (m / 8) % 2 = 1 ∧ 4 ≤ m % 8)) ∧
    field (pack c sign e m).bits c.desc.expOff c.desc.expW =
      (if (pack c sign e m).movf = true ∧ c.ovf = .carry ∧ e < 2 ^ c.desc.expW - 1 then e + 1 else e) ∧
    (e = 2 ^ c.desc.expW - 2 → c.ovf = .carry → (pack c sign e m).movf = true →
      field (pack c sign e m).bits c.desc.expOff c.desc.expW = 2 ^ c.desc.expW - 1 ∧ (pack c sign e m).eovf = false) ∧
    (∀ s : State, ∃ t, exec .pack s = .next t ∧ exec .pack t = .next t) ∧
    (pack c sign e m).bits &&& c.desc.padMask = 0

/-- 10_state.md R25, 41_pack.md R97: neither unpack nor pack reads the bias. -/
def Obligations.DatapathIgnoresTheBias : Prop :=
  ∀ (d : Descriptor) (b : Option Int) (p : RoundingPolicy) (o : OverflowPolicy) (x sign e m : Nat),
    unpack { format := .custom d, policy := p, ovf := o } x =
      unpack { format := .custom { d with givenBias := b }, policy := p, ovf := o } x ∧
    pack { format := .custom d, policy := p, ovf := o } sign e m =
      pack { format := .custom { d with givenBias := b }, policy := p, ovf := o } sign e m

/-! ## The commands: what each one changes, with its whole next state -/

/-- 42_access.md R98: `NOP`. The whole next state. -/
def Obligations.NopOnlyResponds : Prop :=
  ∀ s : State, exec .nop s = .next { s with resp := some { rdata := 0, cerr := false } }

/-- 40_unpack.md R73 to R76: `UNPACK`. The whole next state, each field as a bit slice. -/
def Obligations.UnpackSplitsTheStorageWord : Prop :=
  ∀ s : State, s.Wf →
    exec .unpack s = .next { s with
      us := s.sb.extractLsb' s.cfg.desc.signOff 1
      ue := (s.sb.extractLsb' s.cfg.desc.expOff s.cfg.desc.expW).setWidth 128
      um := ((s.sb.extractLsb' s.cfg.desc.manOff s.cfg.desc.manW).setWidth 128 <<< s.cfg.g) |||
        (if s.cfg.desc.implicit = true ∧ s.sb.extractLsb' s.cfg.desc.expOff s.cfg.desc.expW ≠ 0
          then (1 : Word) <<< (s.cfg.desc.manW + s.cfg.g) else 0)
      resp := some { rdata := 0, cerr := false } }

/-- 40_unpack.md R79: after `UNPACK` the three registers are `unpack(SB)` exactly, `SB` unchanged. -/
def Obligations.UnpackCommandAgreesWithUnpack : Prop :=
  ∀ s : State, s.Wf → ∃ t, exec .unpack s = .next t ∧ t.sb = s.sb ∧
    Unpacked.mk t.us.toNat t.ue.toNat t.um.toNat = unpack s.cfg s.sb.toNat

/-- 41_pack.md R83, R92: `PACK` under truncation. The whole next state. -/
def Obligations.PackUnderTruncation : Prop :=
  ∀ s : State, s.Wf → s.cfg.policy = .trunc →
    exec .pack s = .next { s with
      sb := s.cfg.desc.placed s.us s.ue ((s.um.setWidth s.cfg.desc.manW).setWidth 128)
      st := s.st &&& 0b100
      resp := some { rdata := 0, cerr := false } }

/-- 41_pack.md R94, R85: `PACK` under ties-to-even, outside the overflow case. The whole next state. -/
def Obligations.PackRoundsTiesToEven : Prop :=
  ∀ s : State, s.Wf → s.cfg.policy = .rne →
    ((s.guardValue < 4 ∨ (s.guardValue = 4 ∧ s.candidate % 2 = 0)) →
      exec .pack s = .next { s with
        sb := s.cfg.desc.placed s.us s.ue (BitVec.ofNat 128 s.candidate)
        st := s.st &&& 0b100
        resp := some { rdata := 0, cerr := false } }) ∧
    (((s.guardValue = 4 ∧ s.candidate % 2 = 1) ∨ 4 < s.guardValue) → s.candidate < 2 ^ s.cfg.desc.manW - 1 →
      exec .pack s = .next { s with
        sb := s.cfg.desc.placed s.us s.ue (BitVec.ofNat 128 (s.candidate + 1))
        st := s.st &&& 0b100
        resp := some { rdata := 0, cerr := false } })

/-- 41_pack.md R86, R87, R94; 60_exceptions.md R110: `PACK` in the mantissa-overflow case, by overflow policy. The whole next
state; the command completes without a command error. -/
def Obligations.PackHandlesMantissaOverflow : Prop :=
  ∀ s : State, s.Wf → s.cfg.policy = .rne → s.candidate = 2 ^ s.cfg.desc.manW - 1 → 4 ≤ s.guardValue →
    let renormalised : Word := if s.cfg.desc.implicit = true then 0 else (1 : Word) <<< (s.cfg.desc.manW - 1)
    (s.cfg.ovf = .reference →
      exec .pack s = .next { s with
        sb := s.cfg.desc.placed s.us s.ue 0
        st := (s.st &&& 0b100) ||| 0b001
        resp := some { rdata := 0, cerr := false } }) ∧
    (s.cfg.ovf = .carry → s.ue.toNat < 2 ^ s.cfg.desc.expW - 1 →
      exec .pack s = .next { s with
        sb := s.cfg.desc.placed s.us (s.ue + 1) renormalised
        st := (s.st &&& 0b100) ||| 0b001
        resp := some { rdata := 0, cerr := false } }) ∧
    (s.cfg.ovf = .carry → s.ue.toNat = 2 ^ s.cfg.desc.expW - 1 →
      exec .pack s = .next { s with
        sb := s.cfg.desc.placed s.us s.ue renormalised
        st := (s.st &&& 0b100) ||| 0b011
        resp := some { rdata := 0, cerr := false } })

/-- 41_pack.md R91: when `PACK` sets its two flags; `CERR` is kept. -/
def Obligations.PackFlagsMeanMantissaAndExponentOverflow : Prop :=
  ∀ s : State, s.Wf → ∃ t, exec .pack s = .next t ∧
    (t.movf = true ↔ s.cfg.policy = .rne ∧ s.candidate = 2 ^ s.cfg.desc.manW - 1 ∧
      (4 < s.guardValue ∨ (s.guardValue = 4 ∧ s.candidate % 2 = 1))) ∧
    (t.eovf = true ↔ s.cfg.ovf = .carry ∧ t.movf = true ∧ s.ue.toNat = 2 ^ s.cfg.desc.expW - 1) ∧
    (t.eovf = true → t.movf = true) ∧
    (s.cfg.policy = .trunc → t.movf = false ∧ t.eovf = false) ∧
    t.cerr = s.cerr

/-- 41_pack.md R93: after `PACK`, `SB` and the two flags are `pack(US, UE, UM)` exactly, the operands unchanged. -/
def Obligations.PackCommandAgreesWithPack : Prop :=
  ∀ s : State, s.Wf → ∃ t, exec .pack s = .next t ∧ t.us = s.us ∧ t.ue = s.ue ∧ t.um = s.um ∧
    Packed.mk t.sb.toNat t.movf t.eovf = pack s.cfg s.us.toNat s.ue.toNat s.um.toNat

/-- 42_access.md R99 to R101, 20_memory.md R51: `RD` of a readable index changes nothing but the response, which carries the
register zero-extended. The whole next state. -/
def Obligations.RdReturnsTheRegister : Prop :=
  ∀ (s : State) (idx : RegIdx), (idx.toNat ≤ 0x04 ∨ (0x10 ≤ idx.toNat ∧ idx.toNat ≤ 0x25)) →
    ∃ v : Word, exec (.rd idx) s = .next { s with resp := some { rdata := v, cerr := false } } ∧
      (idx.toNat = 0x00 → v = s.sb) ∧ (idx.toNat = 0x01 → v.toNat = s.us.toNat) ∧ (idx.toNat = 0x02 → v = s.ue) ∧
      (idx.toNat = 0x03 → v = s.um) ∧
      (idx.toNat = 0x04 → v.toNat = 4 * s.cerr.toNat + 2 * s.eovf.toNat + s.movf.toNat) ∧
      (0x10 ≤ idx.toNat → ∀ t : State, t.cfg = s.cfg →
        exec (.rd idx) t = .next { t with resp := some { rdata := v, cerr := false } })

/-- 10_state.md R34, R36, R37: what `RD` returns for each register of the descriptor ROM, as a number that fits the bus. -/
def Obligations.RomReadsAsListed : Prop :=
  ∀ s : State, s.Wf →
    (∀ row ∈ ([(0x10, s.cfg.format.fmtId), (0x11, s.cfg.desc.totalW), (0x12, 1), (0x13, s.cfg.desc.signOff),
        (0x14, s.cfg.desc.expW), (0x15, s.cfg.desc.expOff), (0x16, s.cfg.desc.manW), (0x17, s.cfg.desc.manOff),
        (0x18, if s.cfg.desc.implicit = true then 1 else 0),
        (0x1A, if s.cfg.policy = .trunc then 0 else 1), (0x1B, s.cfg.g), (0x1C, s.cfg.mw),
        (0x1D, if s.cfg.ovf = .reference then 0 else 1), (0x1E, s.cfg.implPos), (0x1F, s.cfg.implMask),
        (0x20, s.cfg.storedMask), (0x21, s.cfg.guardMask), (0x22, s.cfg.desc.signFmask), (0x23, s.cfg.desc.expFmask),
        (0x24, s.cfg.desc.manFmask), (0x25, s.cfg.desc.padMask)] : List (RegIdx × Nat)),
      ∃ v : Word, exec (.rd row.1) s = .next { s with resp := some { rdata := v, cerr := false } } ∧ v.toNat = row.2) ∧
    ∃ v : Word, exec (.rd 0x19) s = .next { s with resp := some { rdata := v, cerr := false } } ∧
      v.toInt = s.cfg.desc.bias

/-- 42_access.md R101, 60_exceptions.md R111, R113: `RD` of a reserved index is a command error with no other effect. -/
def Obligations.RdOfAReservedIndexIsACommandError : Prop :=
  ∀ (s : State) (idx : RegIdx),
    ((0x05 ≤ idx.toNat ∧ idx.toNat ≤ 0x0F) ∨ (0x26 ≤ idx.toNat ∧ idx.toNat ≤ 0x3F)) →
    exec (.rd idx) s = .next s.withCommandError ∧ commandErrorCause (.rd idx) = some .rdReserved

/-- 42_access.md R102, 30_encoding.md R64: `WR` of the five writable registers. The whole next states; the bits above the
register's width are discarded. -/
def Obligations.WrWritesTheLowBits : Prop :=
  ∀ s : State,
    exec (.wr 0x00) s = .next { s with
      sb := (s.wdata.setWidth s.cfg.desc.totalW).setWidth 128, resp := some { rdata := 0, cerr := false } } ∧
    exec (.wr 0x01) s = .next { s with us := s.wdata.setWidth 1, resp := some { rdata := 0, cerr := false } } ∧
    exec (.wr 0x02) s = .next { s with
      ue := (s.wdata.setWidth s.cfg.desc.expW).setWidth 128, resp := some { rdata := 0, cerr := false } } ∧
    exec (.wr 0x03) s = .next { s with
      um := (s.wdata.setWidth s.cfg.mw).setWidth 128, resp := some { rdata := 0, cerr := false } } ∧
    exec (.wr 0x04) s = .next { s with st := s.wdata.setWidth 3, resp := some { rdata := 0, cerr := false } }

/-- 42_access.md R103, 60_exceptions.md R111, R113: `WR` of the ROM or of a reserved index writes no register and is a command
error. -/
def Obligations.WrOfOtherIndicesIsACommandError : Prop :=
  ∀ (s : State) (idx : RegIdx), 0x05 ≤ idx.toNat →
    exec (.wr idx) s = .next s.withCommandError ∧
    commandErrorCause (.wr idx) =
      if 0x10 ≤ idx.toNat ∧ idx.toNat ≤ 0x25 then some .wrReadonly else some .wrReserved

/-- 20_memory.md R55: reads have no side effect and writes can be repeated. -/
def Obligations.ReadsAndWritesAreIdempotent : Prop :=
  ∀ (s : State) (idx : RegIdx),
    (readable idx = true → ∃ t, exec (.rd idx) s = .next t ∧ s.SameRegisters t ∧ exec (.rd idx) t = .next t) ∧
    (writable idx = true → ∃ t, exec (.wr idx) s = .next t ∧ exec (.wr idx) t = .next t) ∧
    (readable idx = false → exec (.rd idx) s = .next s.withCommandError) ∧
    (writable idx = false → exec (.wr idx) s = .next s.withCommandError)

/-- 30_encoding.md R64: every command but `WR` ignores the write data. -/
def Obligations.OnlyWrReadsTheWriteData : Prop :=
  ∀ (i : Instr) (s : State) (v : Word), (∀ idx, i ≠ .wr idx) →
    ∃ t, exec i s = .next t ∧ exec i { s with wdata := v } = .next { t with wdata := v }

/-! ## The machine -/

/-- 20_memory.md R56: a step performs the host's next command, decoded, on the state all earlier ones left, its write data on
the bus. How the host's stream is held is the model's (assumption log 2, 3). -/
def Obligations.StepRunsTheDecodedCommand : Prop :=
  ∀ (s : State) (t : Transaction) (rest : List HostEvent) (i : Instr),
    s.cfg.Wf → s.events = .command t :: rest → decode t.cmd = .ok i →
    step s = exec i { s with wdata := t.wdata, events := rest }

/-- 30_encoding.md R67, 60_exceptions.md R113: an illegal word is a command error with no other effect. -/
def Obligations.IllegalWordIsACommandError : Prop :=
  ∀ (s : State) (t : Transaction) (rest : List HostEvent),
    s.cfg.Wf → s.events = .command t :: rest →
    (5 ≤ (t.cmd.extractLsb' 12 4).toNat ∨ t.cmd.extractLsb' 6 6 ≠ 0 ∨
      ((t.cmd.extractLsb' 12 4).toNat ≤ 2 ∧ t.cmd.extractLsb' 0 6 ≠ 0)) →
    step s = .next { s.withCommandError with wdata := t.wdata, events := rest }

/-- 10_state.md R46, 70_reset_and_hazards.md R127, R132: after a reset every run-time register holds zero, the configuration is
unchanged, and nothing is returned. That the events behind the reset and the write data stay, and that nothing returned is written
as no response, is the model's (assumption log 2, 3 and 4). -/
def Obligations.ResetZeroesTheRegistersAndKeepsTheConfiguration : Prop :=
  (∀ (s : State) (rest : List HostEvent), s.cfg.Wf → s.events = .reset :: rest →
    step s = .next { s with sb := 0, us := 0, ue := 0, um := 0, st := 0, events := rest, resp := none }) ∧
  (State.reset.sb = 0 ∧ State.reset.us = 0 ∧ State.reset.ue = 0 ∧ State.reset.um = 0 ∧ State.reset.st = 0)

/-- 70_reset_and_hazards.md R128: the first conversions after reset, in every configuration. -/
def Obligations.FirstConversionsAfterResetYieldZero : Prop :=
  ∀ (c : Cfg) (es : List HostEvent), c.Wf →
    (∃ t, exec .unpack (State.resetOf c es) = .next t ∧ t.us = 0 ∧ t.ue = 0 ∧ t.um = 0) ∧
    (∃ t, exec .pack (State.resetOf c es) = .next t ∧ t.sb = 0 ∧ t.movf = false ∧ t.eovf = false) ∧
    unpack c 0 = { sign := 0, exp := 0, man := 0 } ∧ pack c 0 0 0 = { bits := 0, movf := false, eovf := false }

/-- 60_exceptions.md R109, R118; 70_reset_and_hazards.md R129: an instance never stops. Whatever the host issues, a step answers
a next state. With nothing issued it holds its state, which is the model's reading (assumption log 2). -/
def Obligations.EveryStepOfAnInstanceCompletes : Prop :=
  ∀ s : State, s.cfg.Wf → (∃ t, step s = .next t) ∧ (s.events = [] → step s = .next s)

/-- 10_state.md R26, 60_exceptions.md R108: a configuration that fails a check has no step. That the model says so by a fault is
its own choice (assumption log 8). -/
def Obligations.NoStepWithoutAnInstance : Prop :=
  ∀ s : State, (step s = .fault (.configurationFailure s.cfg.failures) ↔ ¬ s.cfg.Wf)

/-- 10_state.md R26, R38, R40, R41: every step keeps the configuration legal and every register within its width. -/
def Obligations.StepKeepsTheInvariant : Prop :=
  ∀ s t : State, s.Wf → step s = .next t → t.Wf

/-- The invariant holds after reset, in the reset state and in every configuration. -/
def Obligations.InvariantHoldsAfterReset : Prop :=
  State.reset.Wf ∧ ∀ (c : Cfg) (es : List HostEvent), c.Wf → (State.resetOf c es).Wf

/-- 10_state.md R35, R127: no step changes the configuration or what a ROM index reads as, and every write of a ROM index is a
command error. -/
def Obligations.RomIsHardwired : Prop :=
  ∀ s t : State, step s = .next t → t.cfg = s.cfg ∧
    ∀ idx : RegIdx, 0x10 ≤ idx.toNat → idx.toNat ≤ 0x25 →
      (∃ v : Word, exec (.rd idx) s = .next { s with resp := some { rdata := v, cerr := false } } ∧
        exec (.rd idx) t = .next { t with resp := some { rdata := v, cerr := false } }) ∧
      exec (.wr idx) s = .next s.withCommandError

/-- 10_state.md R38 to R41: which events may change each holding register. -/
def Obligations.HoldingRegistersChangeOnlyByTheirWriters : Prop :=
  ∀ s t : State, step s = .next t → ¬ s.NextReset →
    (t.sb ≠ s.sb → ∃ x, s.NextCommand x ∧ (x.cmd = 0x2000 ∨ x.cmd = 0x4000)) ∧
    (t.us ≠ s.us → ∃ x, s.NextCommand x ∧ (x.cmd = 0x1000 ∨ x.cmd = 0x4001)) ∧
    (t.ue ≠ s.ue → ∃ x, s.NextCommand x ∧ (x.cmd = 0x1000 ∨ x.cmd = 0x4002)) ∧
    (t.um ≠ s.um → ∃ x, s.NextCommand x ∧ (x.cmd = 0x1000 ∨ x.cmd = 0x4003))

/-- 10_state.md R42: which events may change each bit of `ST`, and that `CERR` is set by every command error and cleared only by
`WR ST` or a reset. -/
def Obligations.StatusBitsChangeOnlyByTheirWriters : Prop :=
  ∀ s t : State, step s = .next t →
    (∀ x, s.NextCommand x → (wordErrorCause x.cmd).isSome = true → t.cerr = true) ∧
    (s.cerr = true → t.cerr = false →
      s.NextReset ∨ ∃ x, s.NextCommand x ∧ x.cmd = 0x4004 ∧ x.wdata.getLsbD 2 = false) ∧
    (s.cerr = false → t.cerr = true → ∃ x, s.NextCommand x ∧
      ((wordErrorCause x.cmd).isSome = true ∨ (x.cmd = 0x4004 ∧ x.wdata.getLsbD 2 = true))) ∧
    (t.movf ≠ s.movf ∨ t.eovf ≠ s.eovf →
      s.NextReset ∨ ∃ x, s.NextCommand x ∧ (x.cmd = 0x2000 ∨ x.cmd = 0x4004))

/-- 60_exceptions.md R111 to R113: the four causes, by the words that raise each, with their codes. A word with a cause, whichever
it is, has the one outcome of R113, so no cause is recorded; a word without one completes with `cerr = 0`. -/
def Obligations.CommandErrorsHaveExactlyTheListedCauses : Prop :=
  (∀ w : CmdWord,
    (wordErrorCause w = some .rdReserved ↔
      (0x3005 ≤ w.toNat ∧ w.toNat ≤ 0x300F) ∨ (0x3026 ≤ w.toNat ∧ w.toNat ≤ 0x303F)) ∧
    (wordErrorCause w = some .wrReadonly ↔ 0x4010 ≤ w.toNat ∧ w.toNat ≤ 0x4025) ∧
    (wordErrorCause w = some .wrReserved ↔
      (0x4005 ≤ w.toNat ∧ w.toNat ≤ 0x400F) ∨ (0x4026 ≤ w.toNat ∧ w.toNat ≤ 0x403F)) ∧
    (wordErrorCause w = some .illegalWord ↔
      w ≠ 0x0000 ∧ w ≠ 0x1000 ∧ w ≠ 0x2000 ∧ ¬(0x3000 ≤ w.toNat ∧ w.toNat ≤ 0x303F) ∧
        ¬(0x4000 ≤ w.toNat ∧ w.toNat ≤ 0x403F))) ∧
  (CommandErrorCause.illegalWord.code = 1 ∧ CommandErrorCause.rdReserved.code = 2 ∧
    CommandErrorCause.wrReadonly.code = 3 ∧ CommandErrorCause.wrReserved.code = 4) ∧
  (∀ (s : State) (x : Transaction) (rest : List HostEvent), s.cfg.Wf → s.events = .command x :: rest →
    ((wordErrorCause x.cmd).isSome = true →
      step s = .next { s.withCommandError with wdata := x.wdata, events := rest }) ∧
    (wordErrorCause x.cmd = none → ∃ t r, step s = .next t ∧ t.resp = some r ∧ r.cerr = false))

/-- 20_memory.md R61, 60_exceptions.md R123: instances share no state: a step of one leaves every other as it was, steps of two
instances commute, and the instance that moves takes the step it would take alone. Who moves next, and that an instance that cannot
step stays as it is, is the model's (assumption log 11). -/
def Obligations.InstancesAreIndependent : Prop :=
  (∀ (fleet : List State) (j k : Nat), j ≠ k →
    (stepInstance k fleet)[j]? = fleet[j]? ∧
    stepInstance j (stepInstance k fleet) = stepInstance k (stepInstance j fleet)) ∧
  (∀ (fleet : List State) (k : Nat) (s : State), fleet[k]? = some s →
    (∀ t, step s = .next t → (stepInstance k fleet)[k]? = some t) ∧
    ((∀ t, step s ≠ .next t) → (stepInstance k fleet)[k]? = some s)) ∧
  (∀ (fleet : List State) (k : Nat), (stepInstance k fleet).length = fleet.length)
end

