-- ==== Sys2Proof/Laws/Bits.lean ====
section
/-! SUPPORT. The small laws of the pseudocode primitives: their bits, their bounds, and AND with a mask of ones. -/

namespace Sys2Proof.Machine

theorem testBit_ones (w i : Nat) : (ones w).testBit i = decide (i < w) := by
  simp [ones, Nat.testBit_two_pow_sub_one]

theorem ones_succ (w : Nat) : ones w + 1 = 2 ^ w := by
  have := Nat.two_pow_pos w
  unfold ones; omega

theorem ones_lt (w : Nat) : ones w < 2 ^ w := by
  have := ones_succ w; omega

theorem and_ones (v w : Nat) : v &&& ones w = v % 2 ^ w := Nat.and_two_pow_sub_one_eq_mod v w

theorem testBit_field (v off w i : Nat) : (field v off w).testBit i = (decide (i < w) && v.testBit (off + i)) := by
  simp [field, Nat.testBit_mod_two_pow, Nat.testBit_shiftRight]

theorem field_lt (v off w : Nat) : field v off w < 2 ^ w := Nat.mod_lt _ (Nat.two_pow_pos w)

theorem truncTo_lt (w v : Nat) : truncTo w v < 2 ^ w := Nat.mod_lt _ (Nat.two_pow_pos w)

theorem truncTo_eq_self {w v : Nat} (h : v < 2 ^ w) : truncTo w v = v := Nat.mod_eq_of_lt h

/-- The complement flips exactly the bits below the width. -/
theorem testBit_complW {w a : Nat} (h : a < 2 ^ w) (i : Nat) :
    (complW w a).testBit i = (decide (i < w) && !a.testBit i) := by
  unfold complW ones
  rw [show 2 ^ w - 1 - a = 2 ^ w - (a + 1) by omega, Nat.testBit_two_pow_sub_succ h]

theorem testBit_mask (off w i : Nat) : (ones w <<< off).testBit i = decide (off ≤ i ∧ i < off + w) := by
  rw [Nat.testBit_shiftLeft, testBit_ones]
  by_cases h : off ≤ i
  · simp only [h, decide_true, Bool.true_and, true_and, decide_eq_decide]; omega
  · simp [h]

theorem shiftLeft_lt {v w off t : Nat} (h : v < 2 ^ w) (ht : off + w ≤ t) : v <<< off < 2 ^ t := by
  rw [Nat.shiftLeft_eq]
  calc v * 2 ^ off < 2 ^ w * 2 ^ off := Nat.mul_lt_mul_of_pos_right h (Nat.two_pow_pos off)
    _ = 2 ^ (off + w) := by rw [Nat.mul_comm, ← Nat.pow_add]
    _ ≤ 2 ^ t := Nat.pow_le_pow_right (by decide) ht

theorem testBit_eq_false_of_lt {v w i : Nat} (h : v < 2 ^ w) (hi : w ≤ i) : v.testBit i = false :=
  Nat.testBit_lt_two_pow (lt_of_lt_of_le h (Nat.pow_le_pow_right (by decide) hi))

/-- A value that fits the bus keeps its number on it. -/
theorem zextWord_toNat {v : Nat} (h : v < 2 ^ 128) : (zextWord v).toNat = v := by
  rw [zextWord, BitVec.toNat_ofNat, Nat.mod_eq_of_lt h]

end Sys2Proof.Machine
end

