-- ==== Sys2Proof/Laws/Config.lean ====
section
/-! SUPPORT. What a failing check contributes, what a configuration that passes its checks gives, and the bounds that follow. -/

namespace Sys2Proof

open Sys2Proof.Machine

theorem failUnless_eq_nil (b : Bool) (f : ConfigFailure) : failUnless b f = [] ↔ b = true := by
  cases b <;> simp [failUnless]

theorem mem_failUnless (b : Bool) (f g : ConfigFailure) : g ∈ failUnless b f ↔ b = false ∧ g = f := by
  cases b <;> simp [failUnless]

/-- The descriptor's layout passes exactly when each of the six checks does. -/
theorem Descriptor.layoutFailures_eq_nil (d : Descriptor) (p : Option RoundingPolicy) :
    d.layoutFailures p = [] ↔ d.widthsNonzero = true ∧ d.fieldsInside = true ∧ d.totalSufficient = true ∧
      d.fieldsDisjoint = true ∧ d.widthsInRange p = true ∧ d.signOneBit = true := by
  simp [Descriptor.layoutFailures, failUnless_eq_nil]

/-- Two fields share no bit exactly when their masks do not. -/
theorem mask_and_mask_eq_zero (o w o' w' : Nat) :
    (ones w <<< o) &&& (ones w' <<< o') = 0 ↔ ∀ i, ¬(inField o w i ∧ inField o' w' i) := by
  constructor
  · intro h i hi
    have := congrArg (fun n => n.testBit i) h
    simp only [Nat.testBit_and, testBit_mask, Nat.zero_testBit, Bool.and_eq_false_iff, decide_eq_false_iff_not] at this
    tauto
  · intro h
    refine Nat.eq_of_testBit_eq fun i => ?_
    have := h i
    simp only [Nat.testBit_and, testBit_mask, Nat.zero_testBit, Bool.and_eq_false_iff, decide_eq_false_iff_not]
    tauto

/-- What a well-formed configuration gives a proof: the sizes and places of its fields, as arithmetic. -/
theorem Cfg.Wf.facts {c : Cfg} (h : c.Wf) :
    c.desc.signW = 1 ∧ 0 < c.desc.expW ∧ 0 < c.desc.manW ∧
    c.desc.signOff + 1 ≤ c.desc.totalW ∧ c.desc.expOff + c.desc.expW ≤ c.desc.totalW ∧
    c.desc.manOff + c.desc.manW ≤ c.desc.totalW ∧ c.desc.totalW ≤ 128 ∧ c.mw ≤ 128 := by
  simp only [Cfg.Wf, Cfg.failures, List.append_eq_nil_iff, Descriptor.layoutFailures_eq_nil, failUnless_eq_nil] at h
  simp [Descriptor.widthsNonzero, Descriptor.fieldsInside, Descriptor.widthsInRange, widthOk,
    Descriptor.signOneBit] at h
  obtain ⟨⟨⟨⟨_, he⟩, hm⟩, ⟨⟨hs, hei⟩, hmi⟩, _, _, ⟨⟨⟨ht, _⟩, _⟩, hw⟩, h1⟩, _⟩ := h
  refine ⟨h1, he, hm, by omega, hei, hmi, ht.2, hw.2⟩

/-- The fields of a well-formed configuration share no bit. -/
theorem Cfg.Wf.noSharedBit {c : Cfg} (h : c.Wf) : c.desc.NoSharedBit := by
  simp only [Cfg.Wf, Cfg.failures, List.append_eq_nil_iff, Descriptor.layoutFailures_eq_nil, failUnless_eq_nil] at h
  have hd := h.1.2.2.2.1
  simp only [Descriptor.fieldsDisjoint, Bool.and_eq_true, beq_iff_eq, Descriptor.signFmask, Descriptor.expFmask,
    Descriptor.manFmask, mask_and_mask_eq_zero] at hd
  exact fun i => ⟨hd.1.1 i, hd.1.2 i, hd.2 i⟩

/-- `MW` in its parts (10_state.md R29). -/
theorem Cfg.mw_eq (c : Cfg) : c.mw = c.desc.manW + (if c.desc.implicit then 1 else 0) + c.g := rfl

/-- The three field masks together fit the storage word. -/
theorem Cfg.Wf.fieldMasks_lt {c : Cfg} (h : c.Wf) :
    (c.desc.signFmask ||| c.desc.expFmask ||| c.desc.manFmask) < 2 ^ c.desc.totalW := by
  obtain ⟨h1, _, _, hs, he, hm, _, _⟩ := h.facts
  refine Nat.or_lt_two_pow (Nat.or_lt_two_pow ?_ ?_) ?_
  · exact shiftLeft_lt (ones_lt _) (by omega)
  · exact shiftLeft_lt (ones_lt _) he
  · exact shiftLeft_lt (ones_lt _) hm

/-- A padding bit is a storage bit of no field (10_state.md R32). -/
theorem Cfg.Wf.testBit_padMask {c : Cfg} (h : c.Wf) (i : Nat) :
    c.desc.padMask.testBit i = decide (i < c.desc.totalW ∧ ¬ inField c.desc.signOff c.desc.signW i ∧
      ¬ inField c.desc.expOff c.desc.expW i ∧ ¬ inField c.desc.manOff c.desc.manW i) := by
  rw [Descriptor.padMask, Nat.testBit_and, testBit_ones, testBit_complW h.fieldMasks_lt]
  simp only [Nat.testBit_or, Descriptor.signFmask, Descriptor.expFmask, Descriptor.manFmask, testBit_mask]
  rw [Bool.eq_iff_iff]
  simp only [Bool.and_eq_true, decide_eq_true_eq, Bool.not_eq_true', Bool.or_eq_false_iff, decide_eq_false_iff_not]
  tauto

theorem Cfg.Wf.padMask_lt {c : Cfg} (_h : c.Wf) : c.desc.padMask < 2 ^ c.desc.totalW :=
  Nat.and_lt_two_pow _ (lt_of_le_of_lt (Nat.sub_le _ _) (ones_lt _))

/-- A significant bit is a bit of a field. -/
theorem Cfg.Wf.testBit_significant {c : Cfg} (h : c.Wf) (i : Nat) :
    c.desc.significant.testBit i = decide (inField c.desc.signOff c.desc.signW i ∨
      inField c.desc.expOff c.desc.expW i ∨ inField c.desc.manOff c.desc.manW i) := by
  obtain ⟨h1, _, _, hs, he, hm, _, _⟩ := h.facts
  rw [Descriptor.significant, testBit_complW h.padMask_lt, h.testBit_padMask, Bool.eq_iff_iff]
  simp only [Bool.and_eq_true, decide_eq_true_eq, Bool.not_eq_true', decide_eq_false_iff_not]
  omega

end Sys2Proof
end

