-- ==== Sys2Proof/Laws/Datapath.lean ====
section
/-! SUPPORT. The datapath functions bit by bit, and the bounds of what they yield. -/

namespace Sys2Proof.Machine

/-- What unpack yields fits the three registers. -/
theorem unpack_lt (c : Cfg) (x : Nat) :
    (unpack c x).sign < 2 ∧ (unpack c x).exp < 2 ^ c.desc.expW ∧ (unpack c x).man < 2 ^ c.mw := by
  refine ⟨by simpa [unpack] using field_lt x c.desc.signOff 1, field_lt _ _ _, ?_⟩
  have hs : field x c.desc.manOff c.desc.manW <<< c.g < 2 ^ (c.desc.manW + c.g) :=
    shiftLeft_lt (field_lt _ _ _) (by omega)
  show alignMantissa c _ _ < _
  unfold alignMantissa
  rw [Cfg.mw_eq]
  split
  case isTrue h =>
    refine Nat.or_lt_two_pow ?_ ?_
    · exact lt_of_lt_of_le hs (Nat.pow_le_pow_right (by decide) (by omega))
    · refine shiftLeft_lt (w := 1) ?_ (by omega)
      unfold implicitBit; split <;> decide
  case isFalse h => simpa [h] using hs

/-- The wide mantissa bit by bit: guard bits zero, the stored bits, the implicit bit (40_unpack.md R74 to R77). -/
theorem testBit_unpack_man (c : Cfg) (x i : Nat) :
    (unpack c x).man.testBit i =
      (decide (c.g ≤ i ∧ i < c.g + c.desc.manW) && x.testBit (c.desc.manOff + (i - c.g)) ||
        (c.desc.implicit && decide ((unpack c x).exp ≠ 0) && decide (i = c.desc.manW + c.g))) := by
  have shifted : (field x c.desc.manOff c.desc.manW <<< c.g).testBit i =
      (decide (c.g ≤ i ∧ i < c.g + c.desc.manW) && x.testBit (c.desc.manOff + (i - c.g))) := by
    rw [Nat.testBit_shiftLeft, testBit_field]
    by_cases h : c.g ≤ i
    · simp only [h, decide_true, Bool.true_and, true_and]
      congr 1
      simp only [decide_eq_decide]; omega
    · simp [h]
  have implied (e : Nat) : (implicitBit e <<< (c.desc.manW + c.g)).testBit i =
      (decide (e ≠ 0) && decide (i = c.desc.manW + c.g)) := by
    unfold implicitBit
    by_cases he : e = 0
    · simp [he]
    · simp only [ne_eq, he, not_false_eq_true, if_true, decide_true, Bool.true_and]
      rw [Nat.one_shiftLeft, Nat.testBit_two_pow, decide_eq_decide]
      exact eq_comm
  show (alignMantissa c _ _).testBit i = _
  unfold alignMantissa
  cases hi : c.desc.implicit
  · simpa using shifted
  · rw [if_pos rfl, Nat.testBit_or, shifted, implied]
    rfl

/-- An assembled storage value bit by bit (41_pack.md R88). -/
theorem testBit_assemble (d : Descriptor) (sign e m i : Nat) :
    (assemble d sign e m).testBit i =
      (decide (d.signOff ≤ i) && sign.testBit (i - d.signOff) || decide (d.expOff ≤ i) && e.testBit (i - d.expOff) ||
        decide (d.manOff ≤ i) && m.testBit (i - d.manOff)) := by
  simp [assemble, Nat.testBit_or, Nat.testBit_shiftLeft]

/-- Fields that fit their widths assemble to a value that fits the storage word. -/
theorem assemble_lt {c : Cfg} (h : c.Wf) {sign e m : Nat} (hs : sign < 2) (he : e < 2 ^ c.desc.expW)
    (hm : m < 2 ^ c.desc.manW) : assemble c.desc sign e m < 2 ^ c.desc.totalW := by
  obtain ⟨_, _, _, bs, be, bm, _, _⟩ := h.facts
  unfold assemble
  rw [Nat.zero_or]
  exact Nat.or_lt_two_pow (Nat.or_lt_two_pow (shiftLeft_lt (w := 1) (by simpa using hs) bs) (shiftLeft_lt he be))
    (shiftLeft_lt hm bm)

/-- Fields that fit their widths touch no padding bit: what the assembled value has at a bit, a field has there. -/
theorem inField_of_testBit_assemble {c : Cfg} (h : c.Wf) {sign e m i : Nat} (hs : sign < 2) (he : e < 2 ^ c.desc.expW)
    (hm : m < 2 ^ c.desc.manW) (hi : (assemble c.desc sign e m).testBit i = true) :
    inField c.desc.signOff c.desc.signW i ∨ inField c.desc.expOff c.desc.expW i ∨
      inField c.desc.manOff c.desc.manW i := by
  have inside {v w k : Nat} (hv : v < 2 ^ w) (hk : v.testBit k = true) : k < w := by
    by_contra hc
    rw [testBit_eq_false_of_lt hv (by omega)] at hk
    exact Bool.noConfusion hk
  obtain ⟨h1, _⟩ := h.facts
  simp only [testBit_assemble, Bool.or_eq_true, Bool.and_eq_true, decide_eq_true_eq] at hi
  rcases hi with (⟨hle, hb⟩ | ⟨hle, hb⟩) | ⟨hle, hb⟩
  · have := inside (w := 1) (by simpa using hs) hb; left; constructor <;> omega
  · have := inside he hb; right; left; constructor <;> omega
  · have := inside hm hb; right; right; constructor <;> omega

/-- What narrowing yields fits the stored mantissa (41_pack.md R83, R84). -/
theorem narrow_lt (c : Cfg) (sign m : Nat) : (narrow c sign m).cand < 2 ^ c.desc.manW := by
  unfold narrow
  cases c.policy
  · exact lt_of_le_of_lt Nat.and_le_right (ones_lt _)
  · exact lt_of_le_of_lt Nat.and_le_right (ones_lt _)

/-- What the mantissa-overflow case yields fits the stored mantissa and the exponent field (41_pack.md R87). -/
theorem overflow_lt {c : Cfg} (h : c.Wf) (cand : Nat) {e : Nat} (he : e < 2 ^ c.desc.expW) :
    (overflow c cand e).man < 2 ^ c.desc.manW ∧ (overflow c cand e).exp < 2 ^ c.desc.expW := by
  obtain ⟨_, _, hm, _⟩ := h.facts
  have renormalised : (if c.desc.implicit then 0 else 1 <<< (c.desc.manW - 1)) < 2 ^ c.desc.manW := by
    split
    · exact Nat.two_pow_pos _
    · exact shiftLeft_lt (w := 1) (by decide) (by omega)
  unfold overflow
  cases c.ovf
  · exact ⟨truncTo_lt _ _, he⟩
  · have := ones_succ c.desc.expW
    simp only
    split
    · exact ⟨renormalised, by simp only; omega⟩
    · exact ⟨renormalised, he⟩

/-- Pack always assembles a mantissa and an exponent that fit their fields. -/
theorem pack_bits_eq_assemble {c : Cfg} (h : c.Wf) (sign m : Nat) {e : Nat} (he : e < 2 ^ c.desc.expW) :
    ∃ eo mo, eo < 2 ^ c.desc.expW ∧ mo < 2 ^ c.desc.manW ∧ (pack c sign e m).bits = assemble c.desc sign eo mo := by
  have hc := narrow_lt c sign m
  have := ones_succ c.desc.manW
  unfold pack
  simp only
  split
  · split
    · exact ⟨e, _, he, by omega, rfl⟩
    · exact ⟨_, _, (overflow_lt h _ he).2, (overflow_lt h _ he).1, rfl⟩
  · exact ⟨e, _, he, hc, rfl⟩

/-- A packed value fits the storage word. -/
theorem pack_bits_lt {c : Cfg} (h : c.Wf) {sign e : Nat} (m : Nat) (hs : sign < 2) (he : e < 2 ^ c.desc.expW) :
    (pack c sign e m).bits < 2 ^ c.desc.totalW := by
  obtain ⟨eo, mo, heo, hmo, hb⟩ := pack_bits_eq_assemble h sign m he
  rw [hb]
  exact assemble_lt h hs heo hmo

end Sys2Proof.Machine
end

