-- ==== Sys2Proof/Laws/PerInstr.lean ====
section
/-! SUPPORT. The statement made of every command as syntax, one lemma per constructor: its word shows its row's match value
under its row's mask (spec/opcode_table.json; 30_encoding.md R66). -/

namespace Sys2Proof.Laws.EncodesTableRow

/-- The mask and the match value of a command's row in the opcode table. -/
def row : Instr → CmdWord × CmdWord
  | .nop => (0xFFFF, 0x0000)
  | .unpack => (0xFFFF, 0x1000)
  | .pack => (0xFFFF, 0x2000)
  | .rd _ => (0xFFC0, 0x3000)
  | .wr _ => (0xFFC0, 0x4000)

/-- The command's word is one of its row, with its index in the low six bits. -/
def Statement (i : Instr) : Prop := encode i &&& (row i).1 = (row i).2 ∧ idxField (encode i) = i.index

theorem nop : Statement .nop := by unfold Statement; decide

theorem unpack : Statement .unpack := by unfold Statement; decide

theorem pack : Statement .pack := by unfold Statement; decide

theorem rd (idx : RegIdx) : Statement (.rd idx) := by unfold Statement; revert idx; decide

theorem wr (idx : RegIdx) : Statement (.wr idx) := by unfold Statement; revert idx; decide

end Sys2Proof.Laws.EncodesTableRow
end

