-- ==== Sys2Proof/Laws/State.lean ====
section
/-! SUPPORT. One lemma per field per update of State, so that no later proof unfolds a record update; and the bits of
`ST` after each write of it. -/

namespace Sys2Proof.Machine

variable (s : State)

@[simp] theorem State.writeSB_cfg (v : Nat) : (s.writeSB v).cfg = s.cfg := rfl
@[simp] theorem State.writeSB_sb (v : Nat) : (s.writeSB v).sb = zextWord (truncTo s.cfg.desc.totalW v) := rfl
@[simp] theorem State.writeSB_us (v : Nat) : (s.writeSB v).us = s.us := rfl
@[simp] theorem State.writeSB_ue (v : Nat) : (s.writeSB v).ue = s.ue := rfl
@[simp] theorem State.writeSB_um (v : Nat) : (s.writeSB v).um = s.um := rfl
@[simp] theorem State.writeSB_st (v : Nat) : (s.writeSB v).st = s.st := rfl
@[simp] theorem State.writeSB_events (v : Nat) : (s.writeSB v).events = s.events := rfl
@[simp] theorem State.writeSB_wdata (v : Nat) : (s.writeSB v).wdata = s.wdata := rfl
@[simp] theorem State.writeSB_resp (v : Nat) : (s.writeSB v).resp = s.resp := rfl

@[simp] theorem State.writeUS_cfg (v : Nat) : (s.writeUS v).cfg = s.cfg := rfl
@[simp] theorem State.writeUS_sb (v : Nat) : (s.writeUS v).sb = s.sb := rfl
@[simp] theorem State.writeUS_us (v : Nat) : (s.writeUS v).us = BitVec.ofNat 1 v := rfl
@[simp] theorem State.writeUS_ue (v : Nat) : (s.writeUS v).ue = s.ue := rfl
@[simp] theorem State.writeUS_um (v : Nat) : (s.writeUS v).um = s.um := rfl
@[simp] theorem State.writeUS_st (v : Nat) : (s.writeUS v).st = s.st := rfl
@[simp] theorem State.writeUS_events (v : Nat) : (s.writeUS v).events = s.events := rfl
@[simp] theorem State.writeUS_wdata (v : Nat) : (s.writeUS v).wdata = s.wdata := rfl
@[simp] theorem State.writeUS_resp (v : Nat) : (s.writeUS v).resp = s.resp := rfl

@[simp] theorem State.writeUE_cfg (v : Nat) : (s.writeUE v).cfg = s.cfg := rfl
@[simp] theorem State.writeUE_sb (v : Nat) : (s.writeUE v).sb = s.sb := rfl
@[simp] theorem State.writeUE_us (v : Nat) : (s.writeUE v).us = s.us := rfl
@[simp] theorem State.writeUE_ue (v : Nat) : (s.writeUE v).ue = zextWord (truncTo s.cfg.desc.expW v) := rfl
@[simp] theorem State.writeUE_um (v : Nat) : (s.writeUE v).um = s.um := rfl
@[simp] theorem State.writeUE_st (v : Nat) : (s.writeUE v).st = s.st := rfl
@[simp] theorem State.writeUE_events (v : Nat) : (s.writeUE v).events = s.events := rfl
@[simp] theorem State.writeUE_wdata (v : Nat) : (s.writeUE v).wdata = s.wdata := rfl
@[simp] theorem State.writeUE_resp (v : Nat) : (s.writeUE v).resp = s.resp := rfl

@[simp] theorem State.writeUM_cfg (v : Nat) : (s.writeUM v).cfg = s.cfg := rfl
@[simp] theorem State.writeUM_sb (v : Nat) : (s.writeUM v).sb = s.sb := rfl
@[simp] theorem State.writeUM_us (v : Nat) : (s.writeUM v).us = s.us := rfl
@[simp] theorem State.writeUM_ue (v : Nat) : (s.writeUM v).ue = s.ue := rfl
@[simp] theorem State.writeUM_um (v : Nat) : (s.writeUM v).um = zextWord (truncTo s.cfg.mw v) := rfl
@[simp] theorem State.writeUM_st (v : Nat) : (s.writeUM v).st = s.st := rfl
@[simp] theorem State.writeUM_events (v : Nat) : (s.writeUM v).events = s.events := rfl
@[simp] theorem State.writeUM_wdata (v : Nat) : (s.writeUM v).wdata = s.wdata := rfl
@[simp] theorem State.writeUM_resp (v : Nat) : (s.writeUM v).resp = s.resp := rfl

@[simp] theorem State.writePackFlags_cfg (a b : Bool) : (s.writePackFlags a b).cfg = s.cfg := rfl
@[simp] theorem State.writePackFlags_sb (a b : Bool) : (s.writePackFlags a b).sb = s.sb := rfl
@[simp] theorem State.writePackFlags_us (a b : Bool) : (s.writePackFlags a b).us = s.us := rfl
@[simp] theorem State.writePackFlags_ue (a b : Bool) : (s.writePackFlags a b).ue = s.ue := rfl
@[simp] theorem State.writePackFlags_um (a b : Bool) : (s.writePackFlags a b).um = s.um := rfl
@[simp] theorem State.writePackFlags_st (a b : Bool) : (s.writePackFlags a b).st = stOf s.cerr b a := rfl
@[simp] theorem State.writePackFlags_events (a b : Bool) : (s.writePackFlags a b).events = s.events := rfl
@[simp] theorem State.writePackFlags_wdata (a b : Bool) : (s.writePackFlags a b).wdata = s.wdata := rfl
@[simp] theorem State.writePackFlags_resp (a b : Bool) : (s.writePackFlags a b).resp = s.resp := rfl

@[simp] theorem State.setCerr_cfg : (s.setCerr).cfg = s.cfg := rfl
@[simp] theorem State.setCerr_sb : (s.setCerr).sb = s.sb := rfl
@[simp] theorem State.setCerr_us : (s.setCerr).us = s.us := rfl
@[simp] theorem State.setCerr_ue : (s.setCerr).ue = s.ue := rfl
@[simp] theorem State.setCerr_um : (s.setCerr).um = s.um := rfl
@[simp] theorem State.setCerr_st : (s.setCerr).st = stOf true s.eovf s.movf := rfl
@[simp] theorem State.setCerr_events : (s.setCerr).events = s.events := rfl
@[simp] theorem State.setCerr_wdata : (s.setCerr).wdata = s.wdata := rfl
@[simp] theorem State.setCerr_resp : (s.setCerr).resp = s.resp := rfl

@[simp] theorem State.writeST_cfg (v : Word) : (s.writeST v).cfg = s.cfg := rfl
@[simp] theorem State.writeST_sb (v : Word) : (s.writeST v).sb = s.sb := rfl
@[simp] theorem State.writeST_us (v : Word) : (s.writeST v).us = s.us := rfl
@[simp] theorem State.writeST_ue (v : Word) : (s.writeST v).ue = s.ue := rfl
@[simp] theorem State.writeST_um (v : Word) : (s.writeST v).um = s.um := rfl
@[simp] theorem State.writeST_st (v : Word) : (s.writeST v).st = stOf (v.getLsbD 2) (v.getLsbD 1) (v.getLsbD 0) := rfl
@[simp] theorem State.writeST_events (v : Word) : (s.writeST v).events = s.events := rfl
@[simp] theorem State.writeST_wdata (v : Word) : (s.writeST v).wdata = s.wdata := rfl
@[simp] theorem State.writeST_resp (v : Word) : (s.writeST v).resp = s.resp := rfl

@[simp] theorem State.respond_cfg (r : Word) : (s.respond r).cfg = s.cfg := rfl
@[simp] theorem State.respond_sb (r : Word) : (s.respond r).sb = s.sb := rfl
@[simp] theorem State.respond_us (r : Word) : (s.respond r).us = s.us := rfl
@[simp] theorem State.respond_ue (r : Word) : (s.respond r).ue = s.ue := rfl
@[simp] theorem State.respond_um (r : Word) : (s.respond r).um = s.um := rfl
@[simp] theorem State.respond_st (r : Word) : (s.respond r).st = s.st := rfl
@[simp] theorem State.respond_events (r : Word) : (s.respond r).events = s.events := rfl
@[simp] theorem State.respond_wdata (r : Word) : (s.respond r).wdata = s.wdata := rfl
@[simp] theorem State.respond_resp (r : Word) : (s.respond r).resp = some { rdata := r, cerr := false } := rfl

@[simp] theorem State.raiseCerr_cfg : (s.raiseCerr).cfg = s.cfg := rfl
@[simp] theorem State.raiseCerr_sb : (s.raiseCerr).sb = s.sb := rfl
@[simp] theorem State.raiseCerr_us : (s.raiseCerr).us = s.us := rfl
@[simp] theorem State.raiseCerr_ue : (s.raiseCerr).ue = s.ue := rfl
@[simp] theorem State.raiseCerr_um : (s.raiseCerr).um = s.um := rfl
@[simp] theorem State.raiseCerr_st : (s.raiseCerr).st = stOf true s.eovf s.movf := rfl
@[simp] theorem State.raiseCerr_events : (s.raiseCerr).events = s.events := rfl
@[simp] theorem State.raiseCerr_wdata : (s.raiseCerr).wdata = s.wdata := rfl
@[simp] theorem State.raiseCerr_resp : (s.raiseCerr).resp = some { rdata := 0, cerr := true } := rfl

@[simp] theorem State.accept_cfg (t : Transaction) (rest : List HostEvent) : (s.accept t rest).cfg = s.cfg := rfl
@[simp] theorem State.accept_sb (t : Transaction) (rest : List HostEvent) : (s.accept t rest).sb = s.sb := rfl
@[simp] theorem State.accept_us (t : Transaction) (rest : List HostEvent) : (s.accept t rest).us = s.us := rfl
@[simp] theorem State.accept_ue (t : Transaction) (rest : List HostEvent) : (s.accept t rest).ue = s.ue := rfl
@[simp] theorem State.accept_um (t : Transaction) (rest : List HostEvent) : (s.accept t rest).um = s.um := rfl
@[simp] theorem State.accept_st (t : Transaction) (rest : List HostEvent) : (s.accept t rest).st = s.st := rfl
@[simp] theorem State.accept_events (t : Transaction) (rest : List HostEvent) : (s.accept t rest).events = rest := rfl
@[simp] theorem State.accept_wdata (t : Transaction) (rest : List HostEvent) : (s.accept t rest).wdata = t.wdata := rfl
@[simp] theorem State.accept_resp (t : Transaction) (rest : List HostEvent) : (s.accept t rest).resp = s.resp := rfl

@[simp] theorem State.applyReset_cfg (rest : List HostEvent) : (s.applyReset rest).cfg = s.cfg := rfl
@[simp] theorem State.applyReset_sb (rest : List HostEvent) : (s.applyReset rest).sb = 0 := rfl
@[simp] theorem State.applyReset_us (rest : List HostEvent) : (s.applyReset rest).us = 0 := rfl
@[simp] theorem State.applyReset_ue (rest : List HostEvent) : (s.applyReset rest).ue = 0 := rfl
@[simp] theorem State.applyReset_um (rest : List HostEvent) : (s.applyReset rest).um = 0 := rfl
@[simp] theorem State.applyReset_st (rest : List HostEvent) : (s.applyReset rest).st = 0 := rfl
@[simp] theorem State.applyReset_events (rest : List HostEvent) : (s.applyReset rest).events = rest := rfl
@[simp] theorem State.applyReset_wdata (rest : List HostEvent) : (s.applyReset rest).wdata = s.wdata := rfl
@[simp] theorem State.applyReset_resp (rest : List HostEvent) : (s.applyReset rest).resp = none := rfl

@[simp] theorem State.issueFirst_cfg (w : CmdWord) : (s.issueFirst w).cfg = s.cfg := rfl
@[simp] theorem State.issueFirst_sb (w : CmdWord) : (s.issueFirst w).sb = s.sb := rfl
@[simp] theorem State.issueFirst_us (w : CmdWord) : (s.issueFirst w).us = s.us := rfl
@[simp] theorem State.issueFirst_ue (w : CmdWord) : (s.issueFirst w).ue = s.ue := rfl
@[simp] theorem State.issueFirst_um (w : CmdWord) : (s.issueFirst w).um = s.um := rfl
@[simp] theorem State.issueFirst_st (w : CmdWord) : (s.issueFirst w).st = s.st := rfl
@[simp] theorem State.issueFirst_events (w : CmdWord) : (s.issueFirst w).events = .command { cmd := w, wdata := s.wdata } :: s.events := rfl
@[simp] theorem State.issueFirst_wdata (w : CmdWord) : (s.issueFirst w).wdata = s.wdata := rfl
@[simp] theorem State.issueFirst_resp (w : CmdWord) : (s.issueFirst w).resp = s.resp := rfl

@[simp] theorem State.resetOf_cfg (c : Cfg) (es : List HostEvent) : (State.resetOf c es).cfg = c := rfl
@[simp] theorem State.resetOf_sb (c : Cfg) (es : List HostEvent) : (State.resetOf c es).sb = 0 := rfl
@[simp] theorem State.resetOf_us (c : Cfg) (es : List HostEvent) : (State.resetOf c es).us = 0 := rfl
@[simp] theorem State.resetOf_ue (c : Cfg) (es : List HostEvent) : (State.resetOf c es).ue = 0 := rfl
@[simp] theorem State.resetOf_um (c : Cfg) (es : List HostEvent) : (State.resetOf c es).um = 0 := rfl
@[simp] theorem State.resetOf_st (c : Cfg) (es : List HostEvent) : (State.resetOf c es).st = 0 := rfl
@[simp] theorem State.resetOf_events (c : Cfg) (es : List HostEvent) : (State.resetOf c es).events = es := rfl
@[simp] theorem State.resetOf_wdata (c : Cfg) (es : List HostEvent) : (State.resetOf c es).wdata = 0 := rfl
@[simp] theorem State.resetOf_resp (c : Cfg) (es : List HostEvent) : (State.resetOf c es).resp = none := rfl

theorem stOf_bit0 (c e m : Bool) : (stOf c e m).getLsbD 0 = m := by revert c e m; decide
@[simp] theorem stOf_getElem0 (c e m : Bool) : (stOf c e m)[0] = m := by revert c e m; decide
theorem stOf_bit1 (c e m : Bool) : (stOf c e m).getLsbD 1 = e := by revert c e m; decide
@[simp] theorem stOf_getElem1 (c e m : Bool) : (stOf c e m)[1] = e := by revert c e m; decide
theorem stOf_bit2 (c e m : Bool) : (stOf c e m).getLsbD 2 = c := by revert c e m; decide
@[simp] theorem stOf_getElem2 (c e m : Bool) : (stOf c e m)[2] = c := by revert c e m; decide

/-- `ST` is its three bits. -/
theorem stOf_bits (v : BitVec 3) : stOf (v.getLsbD 2) (v.getLsbD 1) (v.getLsbD 0) = v := by revert v; decide

/-- Setting `CERR` in the three bits is ORing in bit 2. -/
theorem State.setCerr_st_eq_or : s.setCerr.st = s.st ||| 0b100 := by
  have h : ∀ v : BitVec 3, stOf true (v.getLsbD 1) (v.getLsbD 0) = v ||| 0b100 := by decide
  exact h s.st

@[simp] theorem State.writePackFlags_movf (a b : Bool) : (s.writePackFlags a b).movf = a := stOf_bit0 _ _ _
@[simp] theorem State.writePackFlags_eovf (a b : Bool) : (s.writePackFlags a b).eovf = b := stOf_bit1 _ _ _
@[simp] theorem State.writePackFlags_cerr (a b : Bool) : (s.writePackFlags a b).cerr = s.cerr := stOf_bit2 _ _ _
@[simp] theorem State.writeST_movf (v : Word) : (s.writeST v).movf = v.getLsbD 0 := stOf_bit0 _ _ _
@[simp] theorem State.writeST_eovf (v : Word) : (s.writeST v).eovf = v.getLsbD 1 := stOf_bit1 _ _ _
@[simp] theorem State.writeST_cerr (v : Word) : (s.writeST v).cerr = v.getLsbD 2 := stOf_bit2 _ _ _
@[simp] theorem State.raiseCerr_movf : s.raiseCerr.movf = s.movf := stOf_bit0 _ _ _
@[simp] theorem State.raiseCerr_eovf : s.raiseCerr.eovf = s.eovf := stOf_bit1 _ _ _
@[simp] theorem State.raiseCerr_cerr : s.raiseCerr.cerr = true := stOf_bit2 _ _ _

end Sys2Proof.Machine
end

