-- ==== Sys2Proof/Laws/Step.lean ====
section
/-! SUPPORT. What each shared operation can do, said once: naming a register, `RD`, `WR`, performing a word, taking the host's
next event, and one step. Later proofs cite these and unfold nothing. -/

namespace Sys2Proof.Machine

/-- The reserved indices name nothing (20_memory.md R49, R50). -/
theorem Reg.ofIdx_eq_none_iff (idx : RegIdx) :
    Reg.ofIdx idx = none ↔ (0x05 ≤ idx.toNat ∧ idx.toNat ≤ 0x0F) ∨ 0x26 ≤ idx.toNat := by
  revert idx; decide

/-- The indices of the descriptor ROM name its registers (10_state.md R34). -/
theorem Reg.ofIdx_rom_iff (idx : RegIdx) :
    (match Reg.ofIdx idx with | some (.rom _) => true | _ => false) = true ↔ 0x10 ≤ idx.toNat ∧ idx.toNat ≤ 0x25 := by
  revert idx; decide

theorem readable_iff (idx : RegIdx) :
    readable idx = true ↔ idx.toNat ≤ 0x04 ∨ (0x10 ≤ idx.toNat ∧ idx.toNat ≤ 0x25) := by
  revert idx; decide

theorem writable_iff (idx : RegIdx) : writable idx = true ↔ idx.toNat ≤ 0x04 := by
  revert idx; decide

/-- All that `RD` can do. -/
theorem execRd_cases (idx : RegIdx) (s : State) :
    (∃ r, Reg.ofIdx idx = some r ∧ execRd idx s = .next (s.respond (s.regval r))) ∨
    (Reg.ofIdx idx = none ∧ execRd idx s = .next s.raiseCerr) := by
  unfold execRd
  cases Reg.ofIdx idx with
  | some r => exact .inl ⟨r, rfl, rfl⟩
  | none => exact .inr ⟨rfl, rfl⟩

/-- All that `WR` can do. -/
theorem execWr_cases (idx : RegIdx) (s : State) :
    (idx = 0x00 ∧ execWr idx s = .next ((s.writeSB s.wdata.toNat).respond 0)) ∨
    (idx = 0x01 ∧ execWr idx s = .next ((s.writeUS s.wdata.toNat).respond 0)) ∨
    (idx = 0x02 ∧ execWr idx s = .next ((s.writeUE s.wdata.toNat).respond 0)) ∨
    (idx = 0x03 ∧ execWr idx s = .next ((s.writeUM s.wdata.toNat).respond 0)) ∨
    (idx = 0x04 ∧ execWr idx s = .next ((s.writeST s.wdata).respond 0)) ∨
    (writable idx = false ∧ execWr idx s = .next s.raiseCerr) := by
  have named : ∀ idx : RegIdx,
      (idx = 0x00 ∧ Reg.ofIdx idx = some .sb) ∨ (idx = 0x01 ∧ Reg.ofIdx idx = some .us) ∨
      (idx = 0x02 ∧ Reg.ofIdx idx = some .ue) ∨ (idx = 0x03 ∧ Reg.ofIdx idx = some .um) ∨
      (idx = 0x04 ∧ Reg.ofIdx idx = some .st) ∨ writable idx = false := by decide
  rcases named idx with ⟨hi, h⟩ | ⟨hi, h⟩ | ⟨hi, h⟩ | ⟨hi, h⟩ | ⟨hi, h⟩ | h
  · exact .inl ⟨hi, by simp [execWr, h, State.writeReg]⟩
  · exact .inr (.inl ⟨hi, by simp [execWr, h, State.writeReg]⟩)
  · exact .inr (.inr (.inl ⟨hi, by simp [execWr, h, State.writeReg]⟩))
  · exact .inr (.inr (.inr (.inl ⟨hi, by simp [execWr, h, State.writeReg]⟩)))
  · exact .inr (.inr (.inr (.inr (.inl ⟨hi, by simp [execWr, h, State.writeReg]⟩))))
  · refine .inr (.inr (.inr (.inr (.inr ⟨h, ?_⟩))))
    unfold writable at h
    unfold execWr
    cases hr : Reg.ofIdx idx with
    | none => rfl
    | some r => cases r <;> simp_all [State.writeReg]

/-- Every command answers a next state. -/
theorem exec_next (i : Instr) (s : State) : ∃ t, exec i s = .next t := by
  cases i with
  | nop => exact ⟨_, rfl⟩
  | unpack => exact ⟨_, rfl⟩
  | pack => exact ⟨_, rfl⟩
  | rd idx => rcases execRd_cases idx s with ⟨_, _, h⟩ | ⟨_, h⟩ <;> exact ⟨_, h⟩
  | wr idx =>
    rcases execWr_cases idx s with ⟨_, h⟩ | ⟨_, h⟩ | ⟨_, h⟩ | ⟨_, h⟩ | ⟨_, h⟩ | ⟨_, h⟩ <;> exact ⟨_, h⟩

/-- All that performing a command word can do. -/
theorem State.perform_cases {s t : State} {w : CmdWord} (h : s.perform w = .next t) :
    (∃ i, decode w = .ok i ∧ exec i s = .next t) ∨ (∃ e, decode w = .error e ∧ t = s.raiseCerr) := by
  unfold State.perform at h
  cases hd : decode w with
  | ok i => rw [hd] at h; exact .inl ⟨i, rfl, h⟩
  | error e => rw [hd] at h; cases h; exact .inr ⟨e, rfl, rfl⟩

/-- All that one step can do: hold, reset, run a decoded command, or a command error for an illegal word. -/
theorem step_cases {s t : State} (h : step s = .next t) :
    s.cfg.Wf ∧
    ((s.events = [] ∧ t = s) ∨
     (∃ rest, s.events = .reset :: rest ∧ t = s.applyReset rest) ∨
     (∃ x rest i, s.events = .command x :: rest ∧ decode x.cmd = .ok i ∧ exec i (s.accept x rest) = .next t) ∨
     (∃ x rest e, s.events = .command x :: rest ∧ decode x.cmd = .error e ∧ t = (s.accept x rest).raiseCerr)) := by
  unfold step at h
  split at h
  case isFalse => cases h
  case isTrue hw =>
    refine ⟨hw, ?_⟩
    unfold State.serve at h
    split at h
    case h_1 he => cases h; exact .inl ⟨he, rfl⟩
    case h_2 x rest he =>
      rcases State.perform_cases h with ⟨i, hd, hx⟩ | ⟨e, hd, hx⟩
      · exact .inr (.inr (.inl ⟨x, rest, i, he, hd, hx⟩))
      · exact .inr (.inr (.inr ⟨x, rest, e, he, hd, hx⟩))
    case h_3 rest he => cases h; exact .inr (.inl ⟨rest, he, rfl⟩)

/-- A step of an instance whose host issues a command performs it. -/
theorem step_command {s : State} {x : Transaction} {rest : List HostEvent} (hw : s.cfg.Wf)
    (he : s.events = .command x :: rest) : step s = (s.accept x rest).perform x.cmd := by
  simp [step, hw, State.serve, he]

/-- A step of an instance whose host asserts reset resets it. -/
theorem step_reset {s : State} {rest : List HostEvent} (hw : s.cfg.Wf) (he : s.events = .reset :: rest) :
    step s = .next (s.applyReset rest) := by
  simp [step, hw, State.serve, he]

end Sys2Proof.Machine
end

