-- ==== Sys2Proof/Tests/Slice0.lean ====
section
/-! SUPPORT. Tests. Expected values come from the spec: 95_test_vectors.md (named by its section), 30_encoding.md's words, and
60_exceptions.md R107's table. The witnesses at the end meet the hypotheses of the statements. -/

namespace Sys2Proof.Tests

open Sys2Proof Sys2Proof.Machine

/-! ## The configurations of 95_test_vectors.md -/

def e5m2T : Cfg := { format := .e5m2, policy := .trunc, ovf := .carry }
def e5m2R : Cfg := { format := .e5m2, policy := .rne, ovf := .carry }
def e5m2RR : Cfg := { format := .e5m2, policy := .rne, ovf := .reference }

/-- `CUSTOM-12`: no implicit bit, bias −3, padding bits 10 and 5. -/
def custom12 : Descriptor :=
  { totalW := 12, signW := 1, signOff := 11, expW := 4, expOff := 6, manW := 5, manOff := 0, implicit := false,
    givenBias := some (-3) }

def custom12R : Cfg := { format := .custom custom12, policy := .rne, ovf := .carry }

/-- An instance after reset with the given operands. -/
def put (c : Cfg) (sb : Word) (us : BitVec 1) (ue um wdata : Word) : State :=
  { State.resetOf c [] with sb := sb, us := us, ue := ue, um := um, wdata := wdata }

/-- What holds of the next state; false where there is none. -/
def nextHas (o : Host.Outcome State Fault Refusal) (p : State → Bool) : Bool :=
  match o with
  | .next t => p t
  | .fault _ => false
  | .refused _ => false

/-! ## Decoding: words written out from 30_encoding.md R63, R65, R66 as OP, RSV, IDX -/

theorem test_decode_nop : decode 0b0000_000000_000000 = .ok .nop := by decide
theorem test_decode_unpack : decode 0b0001_000000_000000 = .ok .unpack := by decide
theorem test_decode_pack : decode 0b0010_000000_000000 = .ok .pack := by decide
theorem test_decode_rd_bias : decode 0b0011_000000_011001 = .ok (.rd 0x19) := by decide
theorem test_decode_wr_st : decode 0b0100_000000_000100 = .ok (.wr 0x04) := by decide

/-- 95_test_vectors.md 2.6. -/
theorem test_decode_illegal_words :
    decode 0x5000 = .error .reservedOpcode ∧ decode 0xF000 = .error .reservedOpcode ∧
    decode 0x1001 = .error .strayIndex ∧ decode 0x0001 = .error .strayIndex ∧
    decode 0x2040 = .error .reservedBits ∧ decode 0x3040 = .error .reservedBits := by decide

theorem test_table_word_is_the_command : decodeTableWord 16 0x4025 = some (.wr 0x25) := by decide

/-- 30_encoding.md R69. -/
theorem test_assemble_lines :
    (readLine "WR sb, 0x1B3 ; a comment".toList, readLine "rd #0x05".toList) =
      (.ok (.wr 0x00 0x1B3), .ok (.rd 0x05)) := by decide

theorem test_assemble_refuses :
    (readLine "wr sb 3".toList, readLine "rd nosuch".toList, readLine "wr sb, 2".toList) =
      (.error .unknownCommand, .error .badRegister, .ok (.wr 0x00 2)) := by decide

/-- The model's choice (assumption log 10). -/
theorem test_assemble_blank_lines :
    (assembleText ["", "  ; a comment", "nop"]).toOption = some [{ cmd := 0x0000, wdata := 0 }] := by decide

/-! ## Well-formed and ill-formed configurations: one ill-formed term for each check of R107 -/

/-- The `CUSTOM-12` descriptor as a request. -/
def request : ConfigRequest := { fmtId := 0, custom := custom12, policy := 1 }

theorem smoke_custom12_elaborates : request.elaborate.toOption = some custom12R := by decide
theorem smoke_zero_width : .zeroWidth ∈ ({ request with custom := { custom12 with expW := 0 } } : ConfigRequest).failures := by
  decide
theorem smoke_field_bounds :
    ({ request with custom := { custom12 with signOff := 12 } } : ConfigRequest).failures = [.fieldBounds] := by decide
theorem smoke_total_too_small :
    .totalTooSmall ∈ ({ request with custom := { custom12 with totalW := 9 } } : ConfigRequest).failures := by decide
theorem smoke_overlap :
    ({ request with custom := { custom12 with expOff := 4 } } : ConfigRequest).failures = [.overlap] := by decide
theorem smoke_width_range :
    ({ request with custom := { custom12 with totalW := 129 } } : ConfigRequest).failures = [.widthRange] := by decide
theorem smoke_sign_width :
    ({ request with custom := { custom12 with signOff := 10, signW := 2 } } : ConfigRequest).failures = [.signWidth] := by
  decide
theorem smoke_policy : ({ request with policy := 2 } : ConfigRequest).failures = [.policy] := by decide
theorem smoke_ovf_policy : ({ request with ovfPolicy := 2 } : ConfigRequest).failures = [.ovfPolicy] := by decide
theorem smoke_fmt_id : ({ request with fmtId := 6 } : ConfigRequest).failures = [.fmtId] := by decide
theorem smoke_bias_range :
    ({ request with custom := { custom12 with givenBias := some (2 ^ 127) } } : ConfigRequest).failures = [.biasRange] := by
  decide

/-! ## One step of each command -/

/-- 2.4. -/
theorem test_nop : nextHas (exec .nop (put e5m2T 0xB3 1 12 7 9)) (fun t => t.sb == 0xB3 && t.resp == some ⟨0, false⟩) = true := by
  decide

/-- V1, Scenario A. -/
theorem test_unpack_scenario_a :
    nextHas (exec .unpack (put e5m2T 0xB3 0 0 0 0)) (fun t => t.us == 1 && t.ue == 12 && t.um == 0b111) = true := by decide

/-- 2.1: no implicit bit, padding ignored. -/
theorem test_unpack_custom :
    nextHas (exec .unpack (put custom12R 0x9E5 0 0 0 0)) (fun t => t.us == 1 && t.ue == 7 && t.um == 0b00101000) = true := by
  decide

/-- 2.3: the carry at the top of the exponent range. -/
theorem test_pack_clamps :
    nextHas (exec .pack (put e5m2R 0 1 31 0b111100 0)) (fun t => t.sb == 0xFC && t.st == 0b011) = true := by decide

/-- 2.3: the renormalised mantissa of a format without an implicit bit. -/
theorem test_pack_renormalises :
    nextHas (exec .pack (put custom12R 0 0 5 0b11111100 0)) (fun t => t.sb == 0x190 && t.st == 0b001) = true := by decide

/-- 2.5: a negative bias is sign-extended. -/
theorem test_rd_bias :
    nextHas (exec (.rd 0x19) (put custom12R 0 0 0 0 0))
      (fun t => t.resp == some ⟨0xFFFFFFFFFFFFFFFFFFFFFFFFFFFFFFFD, false⟩) = true := by decide

/-- 2.6. -/
theorem test_rd_reserved :
    nextHas (exec (.rd 0x3F) (put e5m2T 0xB3 1 12 7 0)) (fun t => t.st == 0b100 && t.resp == some ⟨0, true⟩ && t.sb == 0xB3) = true := by
  decide

/-- 2.4: the bits above the register's width are discarded. -/
theorem test_wr_discards_high_bits :
    nextHas (exec (.wr 0x00) (put e5m2T 0 0 0 0 0x1B3)) (fun t => t.sb == 0xB3 && t.st == 0) = true := by decide

/-- 2.6: the ROM takes no write. -/
theorem test_wr_rom :
    nextHas (exec (.wr 0x10) (put e5m2T 0 0 0 0 9)) (fun t => t.st == 0b100 && t.cfg == e5m2T) = true := by decide

/-- 2.6: an illegal word, as the host's next command after reset. -/
theorem test_step_illegal_word :
    nextHas (step (State.reset.withFetchWord 16 0x5000)) (fun t => t.st == 0b100 && t.resp == some ⟨0, true⟩) = true := by decide

/-- 2.7. -/
theorem test_step_reset :
    nextHas (step { put e5m2R 0x7C 0 0 0b111111 0 with st := 0b111, events := [.reset] })
      (fun t => t == State.resetOf e5m2R []) = true := by decide

/-! ## Witnesses: a concrete state or operand for the hypotheses of each statement that has any -/

/-- A state of `E5M2-R` in every part of the invariant, not all zero. -/
def live : State := put e5m2R 0xB3 1 12 0b111000 0xFF

theorem witness_wf_state : live.Wf ∧ (put custom12R 0xFFF 1 15 0xFF 0).Wf := by decide
theorem witness_wf_configuration : e5m2T.Wf ∧ e5m2R.Wf ∧ e5m2RR.Wf ∧ custom12R.Wf := by decide

/-- `PackUnderTruncation`. -/
theorem witness_truncation : (put e5m2T 0 1 12 0b111 0).Wf ∧ (put e5m2T 0 1 12 0b111 0).cfg.policy = .trunc := by decide

/-- `PackRoundsTiesToEven`, first clause: below half, and an even tie. -/
theorem witness_rounds_down :
    (put e5m2R 0 0 12 0b111011 0).Wf ∧ (put e5m2R 0 0 12 0b111011 0).guardValue = 3 ∧
    (put e5m2R 0 0 12 0b110100 0).Wf ∧ (put e5m2R 0 0 12 0b110100 0).guardValue = 4 ∧
    (put e5m2R 0 0 12 0b110100 0).candidate % 2 = 0 := by decide

/-- `PackRoundsTiesToEven`, second clause: an odd tie, and above half just under the overflow case. -/
theorem witness_rounds_up :
    (put e5m2R 0 0 12 0b101100 0).Wf ∧ (put e5m2R 0 0 12 0b101100 0).guardValue = 4 ∧
    (put e5m2R 0 0 12 0b101100 0).candidate = 1 ∧
    (put e5m2R 0 0 12 0b110101 0).guardValue = 5 ∧ (put e5m2R 0 0 12 0b110101 0).candidate < 2 ^ 2 - 1 := by decide

/-- `PackHandlesMantissaOverflow`: each of its three clauses, with and without an implicit bit. -/
theorem witness_overflow :
    (put e5m2RR 0 0 12 0b111100 0).Wf ∧ (put e5m2RR 0 0 12 0b111100 0).candidate = 2 ^ 2 - 1 ∧
    (put e5m2RR 0 0 12 0b111100 0).guardValue = 4 ∧
    (put e5m2R 0 0 30 0b111111 0).Wf ∧ (put e5m2R 0 0 30 0b111111 0).candidate = 2 ^ 2 - 1 ∧ (30 : Nat) < 2 ^ 5 - 1 ∧
    (put custom12R 0 0 15 0b11111111 0).Wf ∧ (put custom12R 0 0 15 0b11111111 0).candidate = 2 ^ 5 - 1 ∧
    (put custom12R 0 0 15 0b11111111 0).ue.toNat = 2 ^ 4 - 1 := by decide

/-- `UnpackOfPackKeepsConsistentValues`: with and without an implicit bit, a normal and a denormal value. -/
theorem witness_consistent_values :
    0b111000 &&& e5m2R.guardMask = 0 ∧ (0b111000 : Nat).testBit (e5m2R.mw - 1) = true ∧
    0b011000 &&& e5m2R.guardMask = 0 ∧ (0b011000 : Nat).testBit (e5m2R.mw - 1) = false ∧
    0b11111000 &&& custom12R.guardMask = 0 ∧ (0b11111000 : Nat) < 2 ^ custom12R.mw ∧ custom12R.desc.implicit = false := by
  decide

/-- `PackCornerCases`, the clauses on the top but one exponent and on a one-bit mantissa. -/
theorem witness_pack_corners :
    (pack e5m2R 0 30 0b111100).movf = true ∧ (30 : Nat) = 2 ^ 5 - 2 ∧
    (Cfg.mk (.custom { custom12 with manW := 1 }) .rne .carry).Wf := by decide

/-- `RoundingIsToNearestEven`. -/
theorem witness_rounding : e5m2R.policy = .rne ∧ 0 < e5m2R.desc.manW ∧ e5m2T.policy = .trunc := by decide

/-- `DefaultBiasIsInRange`. -/
theorem witness_default_bias : e5m2T.desc.givenBias = none ∧ 1 ≤ e5m2T.desc.expW ∧ e5m2T.desc.expW ≤ 128 := by decide

/-- `PredefinedFormatsHaveTheListedLayouts`: both ends of the legal and of the reserved identifiers. -/
theorem witness_format_identifiers :
    ({ request with fmtId := 1 } : ConfigRequest).format = some .e5m2 ∧
    ({ request with fmtId := 5 } : ConfigRequest).format = some .binary64 ∧
    ({ request with fmtId := 6 } : ConfigRequest).format = none ∧
    ({ request with fmtId := 255 } : ConfigRequest).format = none := by decide

/-- `EveryFailingConditionIsReportedInOrder`: a request with a legal format and policy, failing and not. -/
theorem witness_request :
    request.format = some custom12R.format ∧ request.policy = custom12R.policy.code ∧ request.failures = [] ∧
    ({ request with ovfPolicy := 7 } : ConfigRequest).failures ≠ [] := by decide

/-- `RdReturnsTheRegister`, `ReadsAndWritesAreIdempotent`: the boundaries of the readable and writable ranges. -/
theorem witness_readable :
    readable 0x00 = true ∧ readable 0x04 = true ∧ readable 0x10 = true ∧ readable 0x25 = true ∧
    writable 0x00 = true ∧ writable 0x04 = true ∧ writable 0x05 = false := by decide

/-- `RdOfAReservedIndexIsACommandError`, `WrOfOtherIndicesIsACommandError`: the boundaries of the other ranges. -/
theorem witness_not_readable :
    commandErrorCause (.rd 0x05) = some .rdReserved ∧ commandErrorCause (.rd 0x0F) = some .rdReserved ∧
    commandErrorCause (.rd 0x26) = some .rdReserved ∧ commandErrorCause (.rd 0x3F) = some .rdReserved ∧
    commandErrorCause (.wr 0x05) = some .wrReserved ∧ commandErrorCause (.wr 0x0F) = some .wrReserved ∧
    commandErrorCause (.wr 0x10) = some .wrReadonly ∧ commandErrorCause (.wr 0x25) = some .wrReadonly ∧
    commandErrorCause (.wr 0x26) = some .wrReserved ∧ commandErrorCause (.wr 0x3F) = some .wrReserved := by decide

/-- `OnlyWrReadsTheWriteData`: a command that is no `WR`. -/
theorem witness_no_wr : ∀ idx, Instr.pack ≠ .wr idx := by decide

/-- `StepRunsTheDecodedCommand`, `IllegalWordIsACommandError`, `StepKeepsTheInvariant`, `CommandErrorsHaveExactlyTheListedCauses`:
a state whose host issues a legal and an illegal word. -/
theorem witness_next_command :
    (live.issueFirst 0x2000).Wf ∧ (live.issueFirst 0x2000).events = [.command ⟨0x2000, 0xFF⟩] ∧
    decode 0x2000 = .ok .pack ∧ (live.issueFirst 0x2040).events = [.command ⟨0x2040, 0xFF⟩] ∧
    (0x2040 : CmdWord).extractLsb' 6 6 ≠ 0 ∧ 5 ≤ ((0x5000 : CmdWord).extractLsb' 12 4).toNat ∧
    ((0x2001 : CmdWord).extractLsb' 12 4).toNat ≤ 2 ∧ (0x2001 : CmdWord).extractLsb' 0 6 ≠ 0 := by decide

theorem witness_step_answers : ∃ t, (live.issueFirst 0x2000).Wf ∧ step (live.issueFirst 0x2000) = .next t :=
  ⟨_, by decide, rfl⟩

/-- `ResetZeroesTheRegistersAndKeepsTheConfiguration`. -/
theorem witness_next_reset : ({ live with events := [.reset] } : State).Wf ∧
    ({ live with events := [.reset] } : State).NextReset := ⟨by decide, [], rfl⟩

/-- `HoldingRegistersChangeOnlyByTheirWriters`: a step that changes `SB`, no reset. -/
theorem witness_sb_changes :
    nextHas (step ((put e5m2R 0 1 12 0b111000 0).issueFirst 0x2000)) (fun t => t.sb != 0) = true ∧
    ¬ ((put e5m2R 0 1 12 0b111000 0).issueFirst 0x2000).NextReset := by
  refine ⟨by decide, ?_⟩
  rintro ⟨rest, h⟩
  cases h

/-- The other registers change too: `UNPACK` changes `US`, `UE` and `UM`. -/
theorem witness_unpack_changes :
    nextHas (step ((put e5m2R 0xB3 0 0 0 0).issueFirst 0x1000)) (fun t => t.us != 0 && t.ue != 0 && t.um != 0) = true := by
  decide

/-- `StatusBitsChangeOnlyByTheirWriters`: `CERR` set by an error, set by `WR ST`, and cleared by `WR ST`. -/
theorem witness_status_changes :
    nextHas (step ((put e5m2T 0 0 0 0 7).issueFirst 0x5000)) (fun t => t.cerr) = true ∧
    nextHas (step ((put e5m2T 0 0 0 0 7).issueFirst 0x4004)) (fun t => t.cerr && t.movf && t.eovf) = true ∧
    nextHas (step (({ put e5m2T 0 0 0 0 0 with st := 0b100 } : State).issueFirst 0x4004)) (fun t => !t.cerr) = true := by decide

/-- `NoStepWithoutAnInstance`: a configuration that fails a check. -/
theorem witness_no_instance :
    ¬ (Cfg.mk (.custom { custom12 with expOff := 4 }) .rne .carry).Wf := by decide

/-- `EveryStepOfAnInstanceCompletes`: nothing issued. -/
theorem witness_idle : State.reset.events = [] ∧ State.reset.cfg.Wf := by decide

/-- `InstancesAreIndependent`: two instances, one that moves, and one that cannot. -/
theorem witness_two_instances :
    (stepInstance 1 [State.reset, live.issueFirst 0x2000])[0]? = some State.reset ∧ (0 : Nat) ≠ 1 ∧
    (match step (live.issueFirst 0x2000) with
      | .next t => decide ((stepInstance 1 [State.reset, live.issueFirst 0x2000])[1]? = some t)
      | _ => false) = true ∧
    (let bad : State := { live with cfg := Cfg.mk (.custom { custom12 with expOff := 4 }) .rne .carry }
     nextHas (step bad) (fun _ => true) = false ∧ (stepInstance 0 [bad])[0]? = some bad) := by decide

/-- `UnpackObeysItsLaws`, `UnpackCornerCases`, `PackIsCanonical`: operands in range. -/
theorem witness_operands : (0xFFF : Nat) < 2 ^ custom12R.desc.totalW ∧ (15 : Nat) < 2 ^ custom12R.desc.expW ∧
    (0xFF : Nat) < 2 ^ custom12R.mw ∧ (unpack e5m2T 0x03).exp = 0 ∧ (unpack e5m2T 0x7C).exp = 2 ^ 5 - 1 := by decide

end Sys2Proof.Tests
end

section
/-! SUPPORT. What a decoded command can do to the registers, said once: which words are which commands, what each command
leaves in the state it answers, and what one step can do. The statements on the invariant and on who writes which register are
read off these. -/

namespace Sys2Proof

open Sys2Proof.Machine

/-- A command word is its three fields (30_encoding.md R63). -/
theorem fields_append (w : CmdWord) : opField w ++ rsvField w ++ idxField w = w := by
  apply BitVec.eq_of_getLsbD_eq
  intro i hi
  simp only [BitVec.getLsbD_append, opField, rsvField, idxField, BitVec.getLsbD_extractLsb']
  grind

/-- A command that takes no index is accepted with index zero alone (30_encoding.md R66, R67). -/
theorem withoutIndex_eq_ok_iff (idx : RegIdx) (i j : Instr) : withoutIndex idx i = .ok j ↔ idx = 0 ∧ i = j := by
  unfold withoutIndex
  by_cases h : idx = 0
  · rw [if_pos h, Except.ok.injEq, and_iff_right h]
  · rw [if_neg h]
    constructor
    · intro hok; cases hok
    · rintro ⟨h0, _⟩; exact absurd h0 h

/-- What decodes to a command is that command's word (30_encoding.md R66, R68). -/
theorem encode_of_decode {w : CmdWord} {i : Instr} (h : decode w = .ok i) : encode i = w := by
  have parts : rsvField w = 0 ∧ opField w = i.opcode ∧ idxField w = i.index := by
    unfold decode at h
    split at h
    case isTrue => cases h
    case isFalse hr =>
      refine ⟨not_not.mp hr, ?_⟩
      split at h
      case h_6 => cases h
      all_goals
        rename_i hop
        simp only [withoutIndex_eq_ok_iff, Except.ok.injEq] at h
      case h_4 | h_5 =>
        subst h
        exact ⟨BitVec.eq_of_toNat_eq hop, rfl⟩
      all_goals
        obtain ⟨hidx, rfl⟩ := h
        exact ⟨BitVec.eq_of_toNat_eq hop, hidx⟩
  obtain ⟨hr, ho, hx⟩ := parts
  rw [encode, ← ho, ← hx, ← hr]
  exact fields_append w

end Sys2Proof

namespace Sys2Proof.Machine

open Sys2Proof

/-- `Completes s i t`: the command `i` completes from `s` without a command error and leaves `t`. One constructor per way to
complete (40_unpack.md R78; 41_pack.md R90; 42_access.md R98, R101, R102). -/
inductive Completes (s : State) : Instr → State → Prop
  | nop : Completes s .nop (s.respond 0)
  | unpack : Completes s .unpack
      ((((s.writeUS (unpack s.cfg s.sb.toNat).sign).writeUE (unpack s.cfg s.sb.toNat).exp).writeUM
        (unpack s.cfg s.sb.toNat).man).respond 0)
  | pack : Completes s .pack
      (((s.writeSB (pack s.cfg s.us.toNat s.ue.toNat s.um.toNat).bits).writePackFlags
        (pack s.cfg s.us.toNat s.ue.toNat s.um.toNat).movf
        (pack s.cfg s.us.toNat s.ue.toNat s.um.toNat).eovf).respond 0)
  | rd {idx : RegIdx} {r : Reg} (h : Reg.ofIdx idx = some r) : Completes s (.rd idx) (s.respond (s.regval r))
  | wrSB : Completes s (.wr 0x00) ((s.writeSB s.wdata.toNat).respond 0)
  | wrUS : Completes s (.wr 0x01) ((s.writeUS s.wdata.toNat).respond 0)
  | wrUE : Completes s (.wr 0x02) ((s.writeUE s.wdata.toNat).respond 0)
  | wrUM : Completes s (.wr 0x03) ((s.writeUM s.wdata.toNat).respond 0)
  | wrST : Completes s (.wr 0x04) ((s.writeST s.wdata).respond 0)

/-- All that a command can do: complete, or be a command error for its one cause (60_exceptions.md R111, R113). -/
theorem exec_cases (i : Instr) (s : State) :
    (∃ t, exec i s = .next t ∧ Completes s i t ∧ commandErrorCause i = none) ∨
    (exec i s = .next s.raiseCerr ∧ (commandErrorCause i).isSome = true) := by
  cases i with
  | nop => exact .inl ⟨_, rfl, .nop, rfl⟩
  | unpack => exact .inl ⟨_, rfl, .unpack, rfl⟩
  | pack => exact .inl ⟨_, rfl, .pack, rfl⟩
  | rd idx =>
    rcases execRd_cases idx s with ⟨r, hr, h⟩ | ⟨hr, h⟩
    · exact .inl ⟨_, h, .rd hr, by simp [commandErrorCause, readable, hr]⟩
    · exact .inr ⟨h, by simp [commandErrorCause, readable, hr]⟩
  | wr idx =>
    rcases execWr_cases idx s with ⟨rfl, h⟩ | ⟨rfl, h⟩ | ⟨rfl, h⟩ | ⟨rfl, h⟩ | ⟨rfl, h⟩ | ⟨hw, h⟩
    · exact .inl ⟨_, h, .wrSB, rfl⟩
    · exact .inl ⟨_, h, .wrUS, rfl⟩
    · exact .inl ⟨_, h, .wrUE, rfl⟩
    · exact .inl ⟨_, h, .wrUM, rfl⟩
    · exact .inl ⟨_, h, .wrST, rfl⟩
    · refine .inr ⟨h, ?_⟩
      simp only [commandErrorCause, hw, Bool.false_eq_true, if_false]
      split <;> rfl

/-- A legal word has the cause its command has (60_exceptions.md R111). -/
theorem wordErrorCause_of_decode {w : CmdWord} {i : Instr} (h : decode w = .ok i) :
    wordErrorCause w = commandErrorCause i := by
  unfold wordErrorCause; rw [h]

/-- An illegal word has the cause of one. -/
theorem wordErrorCause_of_illegal {w : CmdWord} {e : Illegal} (h : decode w = .error e) :
    wordErrorCause w = some .illegalWord := by
  unfold wordErrorCause; rw [h]

/-- Performing a word completes the command whose word it is, or is a command error for the word's one cause
(60_exceptions.md R111 to R113). -/
theorem State.perform_word_cases (s : State) (w : CmdWord) :
    (∃ i t, w = encode i ∧ wordErrorCause w = none ∧ s.perform w = .next t ∧ Completes s i t) ∨
    ((wordErrorCause w).isSome = true ∧ s.perform w = .next s.raiseCerr) := by
  cases hd : decode w with
  | error e =>
    have hp : s.perform w = .next s.raiseCerr := by unfold State.perform; rw [hd]
    exact .inr ⟨by rw [wordErrorCause_of_illegal hd]; rfl, hp⟩
  | ok i =>
    have hp : s.perform w = exec i s := by unfold State.perform; rw [hd]
    rw [wordErrorCause_of_decode hd, hp]
    rcases exec_cases i s with ⟨t, hx, hc, hn⟩ | ⟨hx, hc⟩
    · exact .inl ⟨i, t, (encode_of_decode hd).symm, hn, hx, hc⟩
    · exact .inr ⟨hc, hx⟩

/-- All that one step can do, by what the host issues: hold, reset, complete a command, or a command error. -/
theorem step_event_cases {s t : State} (h : step s = .next t) :
    t = s ∨
    (∃ rest, s.events = .reset :: rest ∧ t = s.applyReset rest) ∨
    (∃ x rest i, s.events = .command x :: rest ∧ x.cmd = encode i ∧ Completes (s.accept x rest) i t) ∨
    (∃ x rest, s.events = .command x :: rest ∧ (wordErrorCause x.cmd).isSome = true ∧
      t = (s.accept x rest).raiseCerr) := by
  obtain ⟨hw, ⟨_, ht⟩ | hreset | ⟨x, rest, _, he, _, _⟩ | ⟨x, rest, _, he, _, _⟩⟩ := step_cases h
  · exact .inl ht
  · exact .inr (.inl hreset)
  all_goals
    rw [step_command hw he] at h
    refine .inr (.inr ?_)
    rcases State.perform_word_cases (s.accept x rest) x.cmd with ⟨i, t', hi, _, hp, hc⟩ | ⟨hc, hp⟩
    · cases hp.symm.trans h
      exact .inl ⟨x, rest, i, he, hi, hc⟩
    · cases hp.symm.trans h
      exact .inr ⟨x, rest, he, hc, rfl⟩

end Sys2Proof.Machine
end


section
/-! SUPPORT. The invariant and the frame of each command: which registers stay within their widths, which ones a command leaves
alone (10_state.md R26, R38 to R42). -/

namespace Sys2Proof

/-! ## The widths of the registers fit the bus -/

section
variable {c : Cfg} (h : c.Wf)
include h

theorem Cfg.Wf.totalW_le : c.desc.totalW ≤ 128 := by
  obtain ⟨_, _, _, _, _, _, ht, _⟩ := h.facts
  exact ht

theorem Cfg.Wf.expW_le : c.desc.expW ≤ 128 := by
  obtain ⟨_, _, _, _, he, _, ht, _⟩ := h.facts
  omega

theorem Cfg.Wf.mw_le : c.mw ≤ 128 := by
  obtain ⟨_, _, _, _, _, _, _, hm⟩ := h.facts
  exact hm

end

end Sys2Proof

namespace Sys2Proof.Machine

open Sys2Proof

/-- A value reduced to a width the bus has fits that width on the bus (10_state.md R38, R40, R41). -/
theorem zextWord_truncTo_toNat {w : Nat} (v : Nat) (hw : w ≤ 128) : (zextWord (truncTo w v)).toNat = truncTo w v :=
  zextWord_toNat (lt_of_lt_of_le (truncTo_lt w v) (Nat.pow_le_pow_right (by decide) hw))

theorem zextWord_truncTo_lt {w : Nat} (v : Nat) (hw : w ≤ 128) : (zextWord (truncTo w v)).toNat < 2 ^ w := by
  rw [zextWord_truncTo_toNat v hw]
  exact truncTo_lt w v

/-! ## Each operation keeps the invariant -/

section
variable {s : State}

theorem State.writeSB_wf (h : s.Wf) (v : Nat) : (s.writeSB v).Wf := by
  obtain ⟨hc, _, he, hm⟩ := h
  exact ⟨hc, zextWord_truncTo_lt v hc.totalW_le, he, hm⟩

theorem State.writeUS_wf (h : s.Wf) (v : Nat) : (s.writeUS v).Wf := h

theorem State.writeUE_wf (h : s.Wf) (v : Nat) : (s.writeUE v).Wf := by
  obtain ⟨hc, hs, _, hm⟩ := h
  exact ⟨hc, hs, zextWord_truncTo_lt v hc.expW_le, hm⟩

theorem State.writeUM_wf (h : s.Wf) (v : Nat) : (s.writeUM v).Wf := by
  obtain ⟨hc, hs, he, _⟩ := h
  exact ⟨hc, hs, he, zextWord_truncTo_lt v hc.mw_le⟩

theorem State.writeST_wf (h : s.Wf) (v : Word) : (s.writeST v).Wf := h

theorem State.writePackFlags_wf (h : s.Wf) (movf eovf : Bool) : (s.writePackFlags movf eovf).Wf := h

theorem State.respond_wf (h : s.Wf) (r : Word) : (s.respond r).Wf := h

theorem State.raiseCerr_wf (h : s.Wf) : s.raiseCerr.Wf := h

theorem State.accept_wf (h : s.Wf) (x : Transaction) (rest : List HostEvent) : (s.accept x rest).Wf := h

/-- Registers that hold zero are within every width. -/
theorem State.wf_of_registers_zero (hc : s.cfg.Wf) (hsb : s.sb = 0) (hue : s.ue = 0) (hum : s.um = 0) : s.Wf := by
  have zero_fits (w : Nat) : (0 : Word).toNat < 2 ^ w := Nat.two_pow_pos w
  exact ⟨hc, hsb ▸ zero_fits _, hue ▸ zero_fits _, hum ▸ zero_fits _⟩

theorem State.applyReset_wf (h : s.cfg.Wf) (rest : List HostEvent) : (s.applyReset rest).Wf :=
  State.wf_of_registers_zero h rfl rfl rfl

end

theorem State.resetOf_wf {c : Cfg} (h : c.Wf) (es : List HostEvent) : (State.resetOf c es).Wf :=
  State.wf_of_registers_zero h rfl rfl rfl

/-- A command that completes keeps the invariant. -/
theorem Completes.wf {s t : State} {i : Instr} (hx : Completes s i t) (h : s.Wf) : t.Wf := by
  cases hx with
  | nop => exact State.respond_wf h _
  | unpack =>
    exact State.respond_wf (State.writeUM_wf (State.writeUE_wf (State.writeUS_wf h _) _) _) _
  | pack => exact State.respond_wf (State.writePackFlags_wf (State.writeSB_wf h _) _ _) _
  | rd _ => exact State.respond_wf h _
  | wrSB => exact State.respond_wf (State.writeSB_wf h _) _
  | wrUS => exact State.respond_wf (State.writeUS_wf h _) _
  | wrUE => exact State.respond_wf (State.writeUE_wf h _) _
  | wrUM => exact State.respond_wf (State.writeUM_wf h _) _
  | wrST => exact State.respond_wf (State.writeST_wf h _) _

/-! ## What a command leaves alone -/

section
variable {s t : State} {i : Instr}

/-- No command writes the configuration (10_state.md R35). -/
theorem Completes.cfg (hx : Completes s i t) : t.cfg = s.cfg := by
  cases hx <;> rfl

/-- `SB` is written by `PACK` and by its `WR` alone (10_state.md R38). -/
theorem Completes.sb (hx : Completes s i t) : t.sb = s.sb ∨ i = .pack ∨ i = .wr 0x00 := by
  cases hx with
  | pack => exact .inr (.inl rfl)
  | wrSB => exact .inr (.inr rfl)
  | _ => exact .inl rfl

/-- `US` is written by `UNPACK` and by its `WR` alone (10_state.md R39). -/
theorem Completes.us (hx : Completes s i t) : t.us = s.us ∨ i = .unpack ∨ i = .wr 0x01 := by
  cases hx with
  | unpack => exact .inr (.inl rfl)
  | wrUS => exact .inr (.inr rfl)
  | _ => exact .inl rfl

/-- `UE` is written by `UNPACK` and by its `WR` alone (10_state.md R40). -/
theorem Completes.ue (hx : Completes s i t) : t.ue = s.ue ∨ i = .unpack ∨ i = .wr 0x02 := by
  cases hx with
  | unpack => exact .inr (.inl rfl)
  | wrUE => exact .inr (.inr rfl)
  | _ => exact .inl rfl

/-- `UM` is written by `UNPACK` and by its `WR` alone (10_state.md R41). -/
theorem Completes.um (hx : Completes s i t) : t.um = s.um ∨ i = .unpack ∨ i = .wr 0x03 := by
  cases hx with
  | unpack => exact .inr (.inl rfl)
  | wrUM => exact .inr (.inr rfl)
  | _ => exact .inl rfl

/-- A command that completes keeps `CERR`, unless it is `WR ST` (10_state.md R42). -/
theorem Completes.cerr (hx : Completes s i t) :
    t.cerr = s.cerr ∨ (i = .wr 0x04 ∧ t.cerr = s.wdata.getLsbD 2) := by
  cases hx with
  | pack => exact .inl (State.writePackFlags_cerr _ _ _)
  | wrST => exact .inr ⟨rfl, State.writeST_cerr s s.wdata⟩
  | _ => exact .inl rfl

/-- `MOVF` and `EOVF` are written by `PACK` and `WR ST` alone (10_state.md R42). -/
theorem Completes.flags (hx : Completes s i t) :
    (t.movf = s.movf ∧ t.eovf = s.eovf) ∨ i = .pack ∨ i = .wr 0x04 := by
  cases hx with
  | pack => exact .inr (.inl rfl)
  | wrST => exact .inr (.inr rfl)
  | _ => exact .inl ⟨rfl, rfl⟩

end

/-- No step changes the configuration (10_state.md R35, R127). -/
theorem step_cfg {s t : State} (h : step s = .next t) : t.cfg = s.cfg := by
  obtain rfl | ⟨_, _, rfl⟩ | ⟨_, _, _, _, _, hx⟩ | ⟨_, _, _, _, rfl⟩ := step_event_cases h
  · rfl
  · rfl
  · exact hx.cfg
  · rfl

/-- What two commands alone write, and neither a transaction's arrival nor a command error, a step that is no reset changes
by the words of those two alone. -/
theorem step_changes_by_writers {α : Type} {f : State → α} {j k : Instr}
    (writers : ∀ {s t : State} {i : Instr}, Completes s i t → f t = f s ∨ i = j ∨ i = k)
    (accept : ∀ s x rest, f (State.accept s x rest) = f s) (error : ∀ s, f (State.raiseCerr s) = f s)
    {s t : State} (h : step s = .next t) (hreset : ¬ s.NextReset) (hne : f t ≠ f s) :
    ∃ x, s.NextCommand x ∧ (x.cmd = encode j ∨ x.cmd = encode k) := by
  obtain rfl | ⟨rest, he, _⟩ | ⟨x, rest, i, he, hi, hx⟩ | ⟨_, _, _, _, rfl⟩ := step_event_cases h
  · exact absurd rfl hne
  · exact absurd ⟨rest, he⟩ hreset
  · rw [← accept s x rest] at hne
    refine ⟨x, ⟨rest, he⟩, ?_⟩
    rcases writers hx with heq | rfl | rfl
    · exact absurd heq hne
    · exact .inl hi
    · exact .inr hi
  · rw [error, accept] at hne
    exact absurd rfl hne

/-- The model's command error is the one of 60_exceptions.md R113. -/
theorem State.raiseCerr_eq_withCommandError (s : State) : s.raiseCerr = s.withCommandError := by
  unfold State.withCommandError
  rw [← s.setCerr_st_eq_or]
  rfl

/-- A command with a cause is a command error (60_exceptions.md R113). -/
theorem exec_of_cause {i : Instr} (s : State) (h : (commandErrorCause i).isSome = true) :
    exec i s = .next s.withCommandError := by
  rcases exec_cases i s with ⟨_, _, _, hn⟩ | ⟨hx, _⟩
  · rw [hn] at h; cases h
  · rw [hx, s.raiseCerr_eq_withCommandError]

/-- A legal configuration always has a step (60_exceptions.md R109). -/
theorem step_next {s : State} (hw : s.cfg.Wf) : ∃ t, step s = .next t := by
  cases he : s.events with
  | nil => exact ⟨s, by simp [step, hw, State.serve, he]⟩
  | cons e rest =>
    cases e with
    | reset => exact ⟨_, step_reset hw he⟩
    | command x =>
      rw [step_command hw he]
      rcases (s.accept x rest).perform_word_cases x.cmd with ⟨_, t, _, _, hp, _⟩ | ⟨_, hp⟩
      · exact ⟨t, hp⟩
      · exact ⟨_, hp⟩

/-! ## The descriptor ROM -/

/-- Every index of the ROM's window names one of its registers (10_state.md R34). -/
theorem Reg.ofIdx_rom {idx : RegIdx} (hlo : 0x10 ≤ idx.toNat) (hhi : idx.toNat ≤ 0x25) :
    ∃ r, Reg.ofIdx idx = some (.rom r) := by
  have h := (Reg.ofIdx_rom_iff idx).mpr ⟨hlo, hhi⟩
  split at h
  case h_1 r hr => exact ⟨r, hr⟩
  case h_2 => cases h

/-- `RD` of a ROM register returns its value, a function of the configuration alone (10_state.md R34, R35). -/
theorem exec_rd_rom {idx : RegIdx} {r : RomReg} (hr : Reg.ofIdx idx = some (.rom r)) (s : State) :
    exec (.rd idx) s = .next { s with resp := some { rdata := romValue s.cfg r, cerr := false } } := by
  show execRd idx s = _
  unfold execRd
  rw [hr]
  rfl

/-- `WR` of an index above `ST` is a command error (42_access.md R103). -/
theorem exec_wr_of_not_writable {idx : RegIdx} (h : 0x05 ≤ idx.toNat) (s : State) :
    exec (.wr idx) s = .next s.withCommandError := by
  have hw : writable idx = false := by
    rw [← Bool.not_eq_true, writable_iff]
    omega
  apply exec_of_cause
  simp only [commandErrorCause, hw, Bool.false_eq_true, if_false]
  split <;> rfl

end Sys2Proof.Machine
end

section
/-! SUPPORT. The statements on what every step keeps and on who writes which register (10_state.md R35 to R46). -/

open Sys2Proof Sys2Proof.Machine

/-- Settles O43, by the cases of one step: every operation on the state keeps the invariant. -/
theorem stepKeepsTheInvariant : Obligations.StepKeepsTheInvariant := by
  intro s t hw h
  obtain rfl | ⟨_, _, rfl⟩ | ⟨_, _, _, _, _, hx⟩ | ⟨_, _, _, _, rfl⟩ := step_event_cases h
  · exact hw
  · exact State.applyReset_wf hw.1 _
  · exact hx.wf (State.accept_wf hw _ _)
  · exact State.raiseCerr_wf (State.accept_wf hw _ _)

/-- Settles O44: every register is zero after reset. -/
theorem invariantHoldsAfterReset : Obligations.InvariantHoldsAfterReset := by
  have hreset : Cfg.atReset.Wf := by decide
  exact ⟨State.wf_of_registers_zero hreset rfl rfl rfl, fun _ es hc => State.resetOf_wf hc es⟩

/-- Settles O39: a reset event is `applyReset`. -/
theorem resetZeroesTheRegistersAndKeepsTheConfiguration :
    Obligations.ResetZeroesTheRegistersAndKeepsTheConfiguration :=
  ⟨fun _ _ hw he => step_reset hw he, rfl, rfl, rfl, rfl, rfl⟩

/-- Settles O42: a configuration whose checks pass has a next state, so it never faults. -/
theorem noStepWithoutAnInstance : Obligations.NoStepWithoutAnInstance := by
  intro s
  constructor
  · intro hfault hw
    obtain ⟨t, ht⟩ := step_next hw
    cases hfault.symm.trans ht
  · intro hw
    rw [step, if_neg hw]

/-- Settles O45: no step changes the configuration, and a ROM index reads from the configuration alone. -/
theorem romIsHardwired : Obligations.RomIsHardwired := by
  intro s t h
  refine ⟨step_cfg h, fun idx hlo hhi => ⟨?_, exec_wr_of_not_writable (by omega) s⟩⟩
  obtain ⟨r, hr⟩ := Reg.ofIdx_rom hlo hhi
  refine ⟨romValue s.cfg r, exec_rd_rom hr s, ?_⟩
  rw [← step_cfg h]
  exact exec_rd_rom hr t

/-- Settles O46: each register has the two writers named, and no command error or arrival of a transaction touches it. -/
theorem holdingRegistersChangeOnlyByTheirWriters : Obligations.HoldingRegistersChangeOnlyByTheirWriters := by
  intro s t h hreset
  refine ⟨fun hsb => ?_, fun hus => ?_, fun hue => ?_, fun hum => ?_⟩
  · exact step_changes_by_writers Completes.sb State.accept_sb State.raiseCerr_sb h hreset hsb
  · exact step_changes_by_writers Completes.us State.accept_us State.raiseCerr_us h hreset hus
  · exact step_changes_by_writers Completes.ue State.accept_ue State.raiseCerr_ue h hreset hue
  · exact step_changes_by_writers Completes.um State.accept_um State.raiseCerr_um h hreset hum

/-- Settles O47, by the cases of one step: `CERR` is set by `raiseCerr`, and of the commands that complete `WR ST` alone
writes it; `MOVF` and `EOVF` have `PACK` and `WR ST` as their two writers. -/
theorem statusBitsChangeOnlyByTheirWriters : Obligations.StatusBitsChangeOnlyByTheirWriters := by
  intro s t h
  refine ⟨fun x hx hcause => ?_, fun hs ht => ?_, fun hs ht => ?_, fun hflags => ?_⟩
  · obtain ⟨rest, he⟩ := hx
    obtain ⟨hw, _⟩ := step_cases h
    rcases (s.accept x rest).perform_word_cases x.cmd with ⟨_, _, _, hn, _⟩ | ⟨_, hp⟩
    · rw [hn] at hcause; cases hcause
    · rw [step_command hw he, hp] at h
      cases h
      exact State.raiseCerr_cerr _
  · obtain rfl | ⟨rest, he, _⟩ | ⟨x, rest, i, he, hi, hx⟩ | ⟨x, rest, _, _, rfl⟩ := step_event_cases h
    · cases hs.symm.trans ht
    · exact .inl ⟨rest, he⟩
    · rcases hx.cerr with hkeep | ⟨rfl, hbit⟩
      · cases (hkeep.trans hs).symm.trans ht
      · exact .inr ⟨x, ⟨rest, he⟩, hi, hbit.symm.trans ht⟩
    · rw [State.raiseCerr_cerr] at ht; cases ht
  · obtain rfl | ⟨_, _, rfl⟩ | ⟨x, rest, i, he, hi, hx⟩ | ⟨x, rest, he, hcause, rfl⟩ := step_event_cases h
    · cases hs.symm.trans ht
    · exact absurd ht (by decide : ¬ (0 : BitVec 3).getLsbD 2 = true)
    · rcases hx.cerr with hkeep | ⟨rfl, hbit⟩
      · cases (hkeep.trans hs).symm.trans ht
      · exact ⟨x, ⟨rest, he⟩, .inr ⟨hi, hbit.symm.trans ht⟩⟩
    · exact ⟨x, ⟨rest, he⟩, .inl hcause⟩
  · by_cases hreset : s.NextReset
    · exact .inl hreset
    · refine .inr (step_changes_by_writers (f := fun r => (r.movf, r.eovf)) (j := .pack) (k := .wr 0x04) ?_
        (fun _ _ _ => rfl) ?_ h hreset ?_)
      · exact fun hx => hx.flags.imp_left fun ⟨hm, he⟩ => Prod.ext hm he
      · exact fun r => Prod.ext r.raiseCerr_movf r.raiseCerr_eovf
      · intro heq
        obtain ⟨hm, he⟩ := Prod.mk.inj heq
        exact hflags.elim (absurd hm) (absurd he)

end

section
/-! SUPPORT. The configuration checks as the conditions they decide, elaboration as the naming of a configuration, and the
default bias (10_state.md R19 to R31, R36). -/

namespace Sys2Proof

open Sys2Proof.Machine

/-! ## Each check, as its condition -/

section
variable (d : Descriptor)

theorem Descriptor.widthsNonzero_iff : d.widthsNonzero = true ↔ 0 < d.signW ∧ 0 < d.expW ∧ 0 < d.manW := by
  simp [Descriptor.widthsNonzero, and_assoc]

theorem Descriptor.fieldsInside_iff : d.fieldsInside = true ↔
    d.signOff + d.signW ≤ d.totalW ∧ d.expOff + d.expW ≤ d.totalW ∧ d.manOff + d.manW ≤ d.totalW := by
  simp [Descriptor.fieldsInside, and_assoc]

theorem Descriptor.totalSufficient_iff : d.totalSufficient = true ↔ d.signW + d.expW + d.manW ≤ d.totalW := by
  simp [Descriptor.totalSufficient]

/-- The masks meet in no bit exactly when no storage bit belongs to two fields. -/
theorem Descriptor.fieldsDisjoint_iff : d.fieldsDisjoint = true ↔ d.NoSharedBit := by
  simp only [Descriptor.fieldsDisjoint, Bool.and_eq_true, beq_iff_eq, Descriptor.signFmask, Descriptor.expFmask,
    Descriptor.manFmask, mask_and_mask_eq_zero, Descriptor.NoSharedBit, forall_and, and_assoc]

theorem widthOk_iff (w : Nat) : widthOk w = true ↔ 1 ≤ w ∧ w ≤ 128 := by
  simp [widthOk]

theorem Descriptor.widthsInRange_iff (p : RoundingPolicy) : d.widthsInRange (some p) = true ↔
    (1 ≤ d.totalW ∧ d.totalW ≤ 128) ∧ (1 ≤ d.expW ∧ d.expW ≤ 128) ∧ (1 ≤ d.manW ∧ d.manW ≤ 128) ∧
      (1 ≤ d.mwWith p.guardBits ∧ d.mwWith p.guardBits ≤ 128) := by
  simp only [Descriptor.widthsInRange, Bool.and_eq_true, widthOk_iff, and_assoc]

theorem Descriptor.signOneBit_iff : d.signOneBit = true ↔ d.signW = 1 := by
  simp [Descriptor.signOneBit]

theorem Descriptor.biasInRange_iff : d.biasInRange = true ↔ -(2 ^ 127) ≤ d.bias ∧ d.bias ≤ 2 ^ 127 - 1 := by
  simp only [Descriptor.biasInRange, Bool.and_eq_true, decide_eq_true_eq]

end

/-- A configuration is well-formed when its layout and its bias pass their checks. -/
theorem Cfg.wf_iff_checks (c : Cfg) :
    c.Wf ↔ c.desc.layoutFailures (some c.policy) = [] ∧ c.desc.biasInRange = true := by
  rw [Cfg.Wf, Cfg.failures, List.append_eq_nil_iff, failUnless_eq_nil]

/-- The wide mantissa holds the stored one. -/
theorem Cfg.manW_le_mw (c : Cfg) : c.desc.manW ≤ c.mw := by
  rw [Cfg.mw_eq]; omega

/-- The checks decide exactly the conditions of 10_state.md R19 to R24 and R36: what R23 asks beyond them, the lower bounds of
the widths, is R19's, and `MW` is at least `MAN_W`. -/
theorem Cfg.wf_iff_legal (c : Cfg) : c.Wf ↔ c.Legal := by
  have hmw := c.manW_le_mw
  rw [Cfg.wf_iff_checks, Descriptor.layoutFailures_eq_nil, Descriptor.widthsNonzero_iff, Descriptor.fieldsInside_iff,
    Descriptor.totalSufficient_iff, Descriptor.fieldsDisjoint_iff, Descriptor.widthsInRange_iff,
    Descriptor.signOneBit_iff, Descriptor.biasInRange_iff]
  change (_ ∧ _ ∧ _ ∧ _ ∧ (_ ∧ _ ∧ _ ∧ (1 ≤ c.mw ∧ c.mw ≤ 128)) ∧ _) ∧ _ ↔ _
  constructor
  · rintro ⟨⟨hnz, hin, htot, hdisj, ⟨⟨ht, ht'⟩, ⟨_, he⟩, ⟨_, hm⟩, _, hw⟩, hsign⟩, hbias⟩
    exact ⟨hnz, hin, htot, hdisj, ⟨ht, ht', he, hm, hw⟩, hsign, hbias⟩
  · rintro ⟨⟨hs, he0, hm0⟩, hin, htot, hdisj, ⟨ht, ht', he, hm, hw⟩, hsign, hbias⟩
    exact ⟨⟨⟨hs, he0, hm0⟩, hin, htot, hdisj, ⟨⟨ht, ht'⟩, ⟨he0, he⟩, ⟨hm0, hm⟩, hm0.trans_le hmw, hw⟩, hsign⟩, hbias⟩

/-! ## The default bias -/

/-- The default bias of an exponent the bus can hold fits the bias register (10_state.md R25, R36). -/
theorem Descriptor.defaultBias_range {d : Descriptor} (h : d.expW ≤ 128) :
    0 ≤ d.defaultBias ∧ d.defaultBias ≤ 2 ^ 127 - 1 := by
  have hlo : (1 : Int) ≤ 2 ^ (d.expW - 1) := one_le_pow₀ (by decide)
  have hhi : (2 : Int) ^ (d.expW - 1) ≤ 2 ^ 127 := pow_le_pow_right₀ (by decide) (by omega)
  unfold Descriptor.defaultBias
  omega

theorem Descriptor.bias_of_not_given {d : Descriptor} (h : d.givenBias = none) : d.bias = d.defaultBias := by
  rw [Descriptor.bias, h, Option.getD_none]

/-! ## The predefined layouts -/

/-- Every packed layout whose wide mantissa and storage word fit the bus is legal, under every policy (10_state.md R31). -/
theorem Cfg.wf_of_packedLayout {c : Cfg} {expW manW : Nat} (hd : c.desc = Descriptor.packedLayout expW manW)
    (he : 0 < expW) (hm : 0 < manW) (h : expW + manW ≤ 124) : c.Wf := by
  have hg : c.g ≤ 3 := by unfold Cfg.g; cases c.policy <;> decide
  have hbias := Descriptor.bias_of_not_given (d := Descriptor.packedLayout expW manW) rfl
  have hrange := Descriptor.defaultBias_range (d := Descriptor.packedLayout expW manW) (by
    show expW ≤ 128; omega)
  rw [Cfg.wf_iff_legal, Cfg.Legal, Cfg.mw_eq, hd, hbias]
  simp only [Descriptor.packedLayout, Descriptor.NoSharedBit, if_true] at hrange ⊢
  refine ⟨by omega, by omega, by omega, fun i => by omega, by omega, trivial, by omega, hrange.2⟩

/-! ## Elaboration -/

theorem RoundingPolicy.ofCode_eq_some_iff (n : Nat) (p : RoundingPolicy) :
    RoundingPolicy.ofCode n = some p ↔ n = p.code := by
  unfold RoundingPolicy.ofCode
  split <;> cases p <;> simp_all [RoundingPolicy.code]

theorem OverflowPolicy.ofCode_eq_some_iff (n : Nat) (o : OverflowPolicy) :
    OverflowPolicy.ofCode n = some o ↔ n = o.code := by
  unfold OverflowPolicy.ofCode
  split <;> cases o <;> simp_all [OverflowPolicy.code]

/-- The request's three parameters name the configuration `c` (10_state.md R27, R30, R31, R37). -/
def ConfigRequest.Names (r : ConfigRequest) (c : Cfg) : Prop :=
  r.format = some c.format ∧ RoundingPolicy.ofCode r.policy = some c.policy ∧
    OverflowPolicy.ofCode r.ovfPolicy = some c.ovf

theorem ConfigRequest.names_iff (r : ConfigRequest) (c : Cfg) :
    r.Names c ↔ r.format = some c.format ∧ r.policy = c.policy.code ∧ r.ovfPolicy = c.ovf.code := by
  rw [ConfigRequest.Names, RoundingPolicy.ofCode_eq_some_iff, OverflowPolicy.ofCode_eq_some_iff]

/-- A request that names a configuration fails the checks that the configuration fails. -/
theorem ConfigRequest.Names.failures {r : ConfigRequest} {c : Cfg} (h : r.Names c) : r.failures = c.failures := by
  obtain ⟨hf, hp, ho⟩ := h
  unfold ConfigRequest.failures
  rw [hf, hp, ho]
  show c.desc.layoutFailures (some c.policy) ++ [] ++ [] ++ [] ++ failUnless c.desc.biasInRange .biasRange = _
  rw [List.append_nil, List.append_nil, List.append_nil, Cfg.failures]

/-- Elaboration yields the configuration the request names, where that passes its checks (10_state.md R26). -/
theorem ConfigRequest.elaborate_eq_ok_iff (r : ConfigRequest) (c : Cfg) : r.elaborate = .ok c ↔ r.Names c ∧ c.Wf := by
  constructor
  · intro h
    unfold ConfigRequest.elaborate at h
    split at h
    case h_1 f p o hnil hf hp ho =>
      cases h
      have hnames : r.Names ⟨f, p, o⟩ := ⟨hf, hp, ho⟩
      exact ⟨hnames, hnames.failures.symm.trans hnil⟩
    case h_2 => cases h
  · rintro ⟨hnames, hw⟩
    have hnil : r.failures = [] := hnames.failures.trans hw
    obtain ⟨hf, hp, ho⟩ := hnames
    unfold ConfigRequest.elaborate
    rw [hnil, hf, hp, ho]

/-- The request for a configuration: its format identifier, its descriptor and the numbers of its two policies. -/
def Cfg.request (c : Cfg) : ConfigRequest :=
  { fmtId := c.format.fmtId, custom := c.desc, policy := c.policy.code, ovfPolicy := c.ovf.code }

theorem Cfg.request_names (c : Cfg) : c.request.Names c := by
  refine (ConfigRequest.names_iff _ _).mpr ⟨?_, rfl, rfl⟩
  obtain ⟨f, p, o⟩ := c
  cases f <;> rfl

/-- The identifiers 1 to 5 name the predefined formats (10_state.md R31). -/
theorem ConfigRequest.format_of_predefined {r : ConfigRequest} (hlo : 1 ≤ r.fmtId) (hhi : r.fmtId ≤ 5) :
    ∃ f, r.format = some f ∧ f.fmtId = r.fmtId ∧ ∀ d, f ≠ .custom d := by
  have h : r.fmtId = 1 ∨ r.fmtId = 2 ∨ r.fmtId = 3 ∨ r.fmtId = 4 ∨ r.fmtId = 5 := by omega
  rcases h with h | h | h | h | h
  · exact ⟨.e5m2, by simp [ConfigRequest.format, h], h.symm, fun _ => nofun⟩
  · exact ⟨.e4m3, by simp [ConfigRequest.format, h], h.symm, fun _ => nofun⟩
  · exact ⟨.binary16, by simp [ConfigRequest.format, h], h.symm, fun _ => nofun⟩
  · exact ⟨.binary32, by simp [ConfigRequest.format, h], h.symm, fun _ => nofun⟩
  · exact ⟨.binary64, by simp [ConfigRequest.format, h], h.symm, fun _ => nofun⟩

theorem ConfigRequest.format_of_custom {r : ConfigRequest} (h : r.fmtId = 0) : r.format = some (.custom r.custom) := by
  simp [ConfigRequest.format, h]

/-- A reserved `FMT_ID` names no format (10_state.md R31). -/
theorem ConfigRequest.format_of_reserved {r : ConfigRequest} (h : 6 ≤ r.fmtId) : r.format = none := by
  unfold ConfigRequest.format
  split
  case h_7 => rfl
  all_goals omega

/-- A request that names no format reports it. -/
theorem ConfigRequest.fmtId_mem_failures {r : ConfigRequest} (h : r.format = none) : .fmtId ∈ r.failures := by
  simp [ConfigRequest.failures, h, failUnless]

end Sys2Proof
end

section
/-! SUPPORT. The statements on what is configured and on elaboration (10_state.md R18 to R31, R36). -/

open Sys2Proof Sys2Proof.Machine

/-- Settles O8: each check decides the condition of its rule. -/
theorem checksAcceptExactlyLegalConfigurations : Obligations.ChecksAcceptExactlyLegalConfigurations :=
  Cfg.wf_iff_legal

/-- Settles O9: a request elaborates to what it names, and every configuration is named by its own request. -/
theorem elaborationYieldsExactlyLegalInstances : Obligations.ElaborationYieldsExactlyLegalInstances := by
  refine ⟨fun r c => ?_, fun c hc => ⟨c.request, ?_⟩⟩
  · rw [ConfigRequest.elaborate_eq_ok_iff, ConfigRequest.names_iff, Cfg.wf_iff_legal]
    simp only [and_assoc]
  · exact (ConfigRequest.elaborate_eq_ok_iff _ _).mpr ⟨c.request_names, c.wf_iff_legal.mpr hc⟩

/-- Settles O5: `G` is read off the policy, and `MW` off its definition. -/
theorem guardBitsAndWideMantissaWidth : Obligations.GuardBitsAndWideMantissaWidth := by
  refine fun c => ⟨fun hp => ?_, fun hp => ?_, Cfg.mw_eq c⟩
  · rw [Cfg.g, hp]; rfl
  · rw [Cfg.g, hp]; rfl

/-- Settles O7: a power of two below `2^127` bounds the default bias. -/
theorem defaultBiasIsInRange : Obligations.DefaultBiasIsInRange := by
  intro c hnone
  rw [Descriptor.bias_of_not_given hnone]
  exact ⟨rfl, fun _ hle => Descriptor.defaultBias_range hle⟩

/-- Settles O6: the rows are computed; that each is legal under every policy is a fact of every packed layout. -/
theorem predefinedFormatsHaveTheListedLayouts : Obligations.PredefinedFormatsHaveTheListedLayouts := by
  refine ⟨?rows, fun _ => ConfigRequest.format_of_predefined, fun _ => ConfigRequest.format_of_custom,
    fun r h _ => ?reserved⟩
  case rows =>
    simp only [List.forall_mem_cons, List.not_mem_nil, false_imp_iff, implies_true, and_true]
    have legal {f : Format} {e m : Nat} (hf : f.desc = Descriptor.packedLayout e m) (he : 0 < e) (hm : 0 < m)
        (h : e + m ≤ 124) (p : RoundingPolicy) (o : OverflowPolicy) : (Cfg.mk f p o).Wf :=
      Cfg.wf_of_packedLayout (c := Cfg.mk f p o) hf he hm h
    refine ⟨⟨rfl, rfl, rfl, rfl, rfl, rfl, rfl, rfl, rfl, rfl, ?_⟩,
      ⟨rfl, rfl, rfl, rfl, rfl, rfl, rfl, rfl, rfl, rfl, ?_⟩,
      ⟨rfl, rfl, rfl, rfl, rfl, rfl, rfl, rfl, rfl, rfl, ?_⟩,
      ⟨rfl, rfl, rfl, rfl, rfl, rfl, rfl, rfl, rfl, rfl, ?_⟩,
      ⟨rfl, rfl, rfl, rfl, rfl, rfl, rfl, rfl, rfl, rfl, ?_⟩⟩
    all_goals exact legal rfl (by decide) (by decide) (by decide)
  case reserved =>
    have hnone := ConfigRequest.format_of_reserved h
    refine ⟨ConfigRequest.fmtId_mem_failures hnone, fun c hc => ?_⟩
    obtain ⟨⟨hf, _⟩, _⟩ := (ConfigRequest.elaborate_eq_ok_iff r c).mp hc
    cases hnone.symm.trans hf

/-- Settles O21: the datapath reads the widths, the offsets and the implicit bit of a descriptor, and these are the same
whatever bias it gives. -/
theorem datapathIgnoresTheBias : Obligations.DatapathIgnoresTheBias := by
  intro d b p o x sign e m
  exact ⟨rfl, rfl⟩

end

section
/-! SUPPORT. The masks of the storage fields and of the wide mantissa bit by bit, the guard bits, and the numbers the descriptor
ROM reads as (10_state.md R32 to R37, R47; 40_unpack.md R77). -/

namespace Sys2Proof

open Sys2Proof.Machine

/-! ## The masks of the wide mantissa -/

theorem Cfg.implMask_of_implicit {c : Cfg} (h : c.desc.implicit = true) :
    c.implPos = c.desc.manW + c.g ∧ c.implMask = 2 ^ (c.desc.manW + c.g) := by
  rw [Cfg.implPos, Cfg.implMask, if_pos h, if_pos h, Nat.one_shiftLeft]
  exact ⟨rfl, rfl⟩

theorem Cfg.implMask_of_not_implicit {c : Cfg} (h : c.desc.implicit = false) : c.implPos = 0 ∧ c.implMask = 0 := by
  rw [Cfg.implPos, Cfg.implMask, h]
  exact ⟨rfl, rfl⟩

section
variable (c : Cfg) (i : Nat)

theorem Cfg.testBit_implMask : c.implMask.testBit i = true ↔ c.desc.implicit = true ∧ i = c.desc.manW + c.g := by
  cases h : c.desc.implicit with
  | true =>
    rw [(Cfg.implMask_of_implicit h).2, Nat.testBit_two_pow, decide_eq_true_eq]
    exact ⟨fun hi => ⟨rfl, hi.symm⟩, fun hi => hi.2.symm⟩
  | false => simp [(Cfg.implMask_of_not_implicit h).2]

theorem Cfg.testBit_storedMask : c.storedMask.testBit i = true ↔ inField c.g c.desc.manW i := by
  rw [Cfg.storedMask, testBit_mask, decide_eq_true_eq]

theorem Cfg.testBit_guardMask : c.guardMask.testBit i = true ↔ i < c.g := by
  rw [Cfg.guardMask, testBit_ones, decide_eq_true_eq]

end

/-- The three masks cover the wide mantissa: the guard bits, above them the stored ones, above these the implicit one
(10_state.md R33). -/
theorem Cfg.mantissaMasks_cover (c : Cfg) : c.implMask ||| c.storedMask ||| c.guardMask = ones c.mw := by
  apply Nat.eq_of_testBit_eq
  intro i
  rw [Nat.testBit_or, Nat.testBit_or, testBit_ones, Bool.eq_iff_iff, Bool.or_eq_true, Bool.or_eq_true,
    Cfg.testBit_implMask, Cfg.testBit_storedMask, Cfg.testBit_guardMask, decide_eq_true_eq, Cfg.mw_eq]
  cases c.desc.implicit with
  | true => simp only [if_true, true_and]; omega
  | false => simp only [Bool.false_eq_true, if_false, false_and, false_or]; omega

theorem Cfg.g_le_mw (c : Cfg) : c.g ≤ c.mw := by
  rw [Cfg.mw_eq]; omega

theorem Cfg.guardMask_eq (c : Cfg) : c.guardMask = ones c.g := rfl

/-- Reducing a mantissa to `MW` bits keeps its guard bits. -/
theorem Cfg.truncTo_mw_and_guardMask (c : Cfg) (v : Nat) : truncTo c.mw v &&& c.guardMask = v &&& c.guardMask := by
  rw [Cfg.guardMask_eq, and_ones, and_ones, truncTo]
  exact Nat.mod_mod_of_dvd v (Nat.pow_dvd_pow 2 c.g_le_mw)

/-! ## The numbers of the descriptor ROM fit the bus -/

/-- A part of the wide mantissa of a legal configuration fits the bus. -/
theorem Cfg.Wf.mantissaMasks_lt {c : Cfg} (h : c.Wf) :
    c.implMask < 2 ^ 128 ∧ c.storedMask < 2 ^ 128 ∧ c.guardMask < 2 ^ 128 := by
  have hcover : c.implMask ||| c.storedMask ||| c.guardMask < 2 ^ 128 := by
    rw [c.mantissaMasks_cover]
    exact lt_of_lt_of_le (ones_lt _) (Nat.pow_le_pow_right (by decide) h.mw_le)
  have hstored : c.implMask ||| c.storedMask ≤ c.implMask ||| c.storedMask ||| c.guardMask := Nat.left_le_or
  exact ⟨lt_of_le_of_lt (Nat.left_le_or.trans hstored) hcover, lt_of_le_of_lt (Nat.right_le_or.trans hstored) hcover,
    lt_of_le_of_lt Nat.right_le_or hcover⟩

theorem Format.fmtId_le (f : Format) : f.fmtId ≤ 5 := by
  cases f <;> simp [Format.fmtId]

theorem RoundingPolicy.code_eq (p : RoundingPolicy) : p.code = if p = .trunc then 0 else 1 := by
  cases p <;> rfl

theorem OverflowPolicy.code_eq (o : OverflowPolicy) : o.code = if o = .reference then 0 else 1 := by
  cases o <;> rfl

theorem Cfg.implPos_le_mw (c : Cfg) : c.implPos ≤ c.mw := by
  rw [Cfg.implPos, Cfg.mw_eq]
  split <;> omega

theorem Cfg.Wf.padMask_lt_bus {c : Cfg} (h : c.Wf) : c.desc.padMask < 2 ^ 128 :=
  lt_of_lt_of_le h.padMask_lt (Nat.pow_le_pow_right (by decide) h.totalW_le)

end Sys2Proof

namespace Sys2Proof.Machine

open Sys2Proof

/-- Two masks of which no bit is in both meet in nothing. -/
theorem and_eq_zero_of_no_common_bit {a b : Nat} (h : ∀ i, a.testBit i = true → b.testBit i = true → False) :
    a &&& b = 0 := by
  apply Nat.eq_of_testBit_eq
  intro i
  rw [Nat.testBit_and, Nat.zero_testBit, Bool.and_eq_false_iff, ← Bool.not_eq_true, ← Bool.not_eq_true]
  exact not_and_or.mp fun hi => h i hi.1 hi.2

/-! ## Guard bits -/

/-- No input gives an unpacked mantissa a guard bit (40_unpack.md R77). -/
theorem unpack_man_and_guardMask (c : Cfg) (x : Nat) : (unpack c x).man &&& c.guardMask = 0 := by
  apply and_eq_zero_of_no_common_bit
  intro i hman hguard
  rw [Cfg.testBit_guardMask] at hguard
  rw [testBit_unpack_man, Bool.or_eq_true, Bool.and_eq_true, Bool.and_eq_true, decide_eq_true_eq,
    decide_eq_true_eq] at hman
  omega

/-- What stands in `UM` after a write has the guard bits of the value written. -/
theorem State.writeUM_guardBits {s : State} (h : s.cfg.Wf) (v : Nat) :
    (s.writeUM v).um.toNat &&& s.cfg.guardMask = v &&& s.cfg.guardMask := by
  rw [State.writeUM_um, zextWord_truncTo_toNat v h.mw_le, Cfg.truncTo_mw_and_guardMask]

/-! ## Reading the descriptor ROM -/

/-- A field of a legal configuration lies in the storage word, so its mask fits the bus. -/
theorem mask_lt_bus {off w : Nat} (h : off + w ≤ 128) : ones w <<< off < 2 ^ 128 := shiftLeft_lt (ones_lt w) h

/-- A ROM register whose read value is a number that fits the bus is read as that number. -/
theorem exec_rd_rom_number {s : State} {idx : RegIdx} {r : RomReg} {n : Nat} (hr : Reg.ofIdx idx = some (.rom r))
    (hv : romValue s.cfg r = zextWord n) (hn : n < 2 ^ 128) :
    ∃ v : Word, exec (.rd idx) s = .next { s with resp := some { rdata := v, cerr := false } } ∧ v.toNat = n :=
  ⟨romValue s.cfg r, exec_rd_rom hr s, by rw [hv, zextWord_toNat hn]⟩

/-- A signed constant within the bus keeps its value on it (10_state.md R36). -/
theorem sextWord_toInt {v : Int} (hlo : -(2 ^ 127) ≤ v) (hhi : v ≤ 2 ^ 127 - 1) : (sextWord v).toInt = v := by
  rw [sextWord]
  exact BitVec.toInt_ofInt_eq_self (by decide) hlo (by omega)

end Sys2Proof.Machine
end

section
/-! SUPPORT. The statements on the masks, on the guard bits and on what the ROM reads as (10_state.md R32 to R37, R47). -/

open Sys2Proof Sys2Proof.Machine

/-- Settles O11: each mask is a run of ones at its field's offset, and the padding is the rest of the storage word. -/
theorem storageMasksMarkTheFields : Obligations.StorageMasksMarkTheFields := by
  intro c hw i
  refine ⟨?_, ?_, ?_, ?_⟩
  · rw [Descriptor.signFmask, testBit_mask, decide_eq_true_eq]
  · rw [Descriptor.expFmask, testBit_mask, decide_eq_true_eq]
  · rw [Descriptor.manFmask, testBit_mask, decide_eq_true_eq]
  · rw [hw.testBit_padMask, decide_eq_true_eq]

/-- Settles O12: the masks' bits are the guard bits, the stored bits above them and the implicit bit above these. -/
theorem mantissaMasksPartitionTheWideMantissa : Obligations.MantissaMasksPartitionTheWideMantissa := by
  intro c _
  refine ⟨Cfg.implMask_of_implicit, Cfg.implMask_of_not_implicit, c.testBit_storedMask, rfl, c.mantissaMasks_cover,
    and_eq_zero_of_no_common_bit fun i himpl hstored => ?_, and_eq_zero_of_no_common_bit fun i himpl hguard => ?_,
    and_eq_zero_of_no_common_bit fun i hstored hguard => ?_⟩
  · rw [Cfg.testBit_implMask] at himpl
    rw [Cfg.testBit_storedMask] at hstored
    omega
  · rw [Cfg.testBit_implMask] at himpl
    rw [Cfg.testBit_guardMask] at hguard
    omega
  · rw [Cfg.testBit_storedMask] at hstored
    rw [Cfg.testBit_guardMask] at hguard
    omega

/-- Settles O13: `UM` takes the guard bits of what is written to it, and unpack yields none. -/
theorem guardBitsAreZeroAfterUnpack : Obligations.GuardBitsAreZeroAfterUnpack := by
  refine ⟨unpack_man_and_guardMask, fun s hw => ⟨_, rfl, ?_⟩, fun c es => ?_, fun s hw => ⟨_, rfl, ?_⟩⟩
  · let u := unpack s.cfg s.sb.toNat
    exact (State.writeUM_guardBits (s := (s.writeUS u.sign).writeUE u.exp) hw.1 u.man).trans
      (unpack_man_and_guardMask s.cfg s.sb.toNat)
  · exact Nat.zero_and _
  · exact Eq.congr_left (State.writeUM_guardBits hw.1 s.wdata.toNat)

/-- Settles O31: each index names its ROM register, whose number fits the bus in a legal configuration. -/
theorem romReadsAsListed : Obligations.RomReadsAsListed := by
  intro s hw
  have hc := hw.1
  obtain ⟨hsign, _, _, hs, he, hm, ht, hmw⟩ := hc.facts
  obtain ⟨hI, hS, hG⟩ := hc.mantissaMasks_lt
  obtain ⟨_, _, _, _, _, _, hblo, hbhi⟩ := (Cfg.wf_iff_legal s.cfg).mp hc
  refine ⟨?_, romValue s.cfg .bias, exec_rd_rom rfl s, sextWord_toInt hblo hbhi⟩
  have small {n : Nat} (hn : n ≤ 128) : n < 2 ^ 128 := lt_of_le_of_lt hn (by decide)
  have hfmt := s.cfg.format.fmtId_le
  have hg := s.cfg.g_le_mw
  have hpos := s.cfg.implPos_le_mw
  simp only [List.forall_mem_cons, List.not_mem_nil, false_imp_iff, implies_true, and_true]
  refine ⟨exec_rd_rom_number (r := .fmtId) rfl rfl (small (by omega)),
    exec_rd_rom_number (r := .totalW) rfl rfl (small ht),
    exec_rd_rom_number (r := .signW) rfl (congrArg zextWord hsign) (by decide),
    exec_rd_rom_number (r := .signOff) rfl rfl (small (by omega)),
    exec_rd_rom_number (r := .expW) rfl rfl (small (by omega)),
    exec_rd_rom_number (r := .expOff) rfl rfl (small (by omega)),
    exec_rd_rom_number (r := .manW) rfl rfl (small (by omega)),
    exec_rd_rom_number (r := .manOff) rfl rfl (small (by omega)),
    exec_rd_rom_number (r := .implicit) rfl rfl (small (by split <;> decide)),
    exec_rd_rom_number (r := .policy) rfl (congrArg zextWord (RoundingPolicy.code_eq _)) (small (by split <;> decide)),
    exec_rd_rom_number (r := .g) rfl rfl (small (by omega)),
    exec_rd_rom_number (r := .mw) rfl rfl (small hmw),
    exec_rd_rom_number (r := .ovfPolicy) rfl (congrArg zextWord (OverflowPolicy.code_eq _))
      (small (by split <;> decide)),
    exec_rd_rom_number (r := .implPos) rfl rfl (small (by omega)),
    exec_rd_rom_number (r := .implMask) rfl rfl hI,
    exec_rd_rom_number (r := .storedMask) rfl rfl hS,
    exec_rd_rom_number (r := .guardMask) rfl rfl hG,
    exec_rd_rom_number (r := .signFmask) rfl rfl (mask_lt_bus (by omega)),
    exec_rd_rom_number (r := .expFmask) rfl rfl (mask_lt_bus (by omega)),
    exec_rd_rom_number (r := .manFmask) rfl rfl (mask_lt_bus (by omega)),
    exec_rd_rom_number (r := .padMask) rfl rfl hc.padMask_lt_bus⟩

end

section
/-! SUPPORT. Which commands complete, what repeating one does, and the single instance inside a fleet (20_memory.md R55, R56,
R61; 60_exceptions.md R111, R123). -/

namespace Sys2Proof.Machine

open Sys2Proof

/-! ## Commands that complete -/

/-- `RD` has a cause exactly where its index is not readable (60_exceptions.md R111). -/
theorem commandErrorCause_rd_isSome (idx : RegIdx) : (commandErrorCause (.rd idx)).isSome = !readable idx := by
  simp only [commandErrorCause]
  cases readable idx <;> rfl

/-- `WR` has a cause exactly where its index is not writable (60_exceptions.md R111). -/
theorem commandErrorCause_wr_isSome (idx : RegIdx) : (commandErrorCause (.wr idx)).isSome = !writable idx := by
  simp only [commandErrorCause]
  cases writable idx
  · cases readable idx <;> rfl
  · rfl

/-- A command without a cause completes. -/
theorem exists_completes_of_no_cause {i : Instr} (h : (commandErrorCause i).isSome = false) (s : State) :
    ∃ t, exec i s = .next t ∧ Completes s i t := by
  rcases exec_cases i s with ⟨t, hx, hc, _⟩ | ⟨_, hc⟩
  · exact ⟨t, hx, hc⟩
  · rw [h] at hc; cases hc

/-- `Completes` says no more than `exec` answers. -/
theorem Completes.exec_eq {s t : State} {i : Instr} (hx : Completes s i t) : exec i s = .next t := by
  cases hx with
  | @rd idx r hr =>
    show execRd idx s = _
    rw [execRd, hr]
  | _ => rfl

/-! ## Repeating a command -/

/-- A response changes no register's read value. -/
theorem State.regval_respond (s : State) (v : Word) (r : Reg) : (s.respond v).regval r = s.regval r := by
  cases r <;> rfl

/-- `RD` changes no register (20_memory.md R55). -/
theorem Completes.sameRegisters_of_rd {s t : State} {idx : RegIdx} (hx : Completes s (.rd idx) t) :
    s.SameRegisters t := by
  cases hx
  exact ⟨rfl, rfl, rfl, rfl, rfl, rfl⟩

/-- A second `RD` of the same index finds its value unchanged, so it answers what the first answered. -/
theorem Completes.rd_again {s t : State} {idx : RegIdx} (hx : Completes s (.rd idx) t) : Completes t (.rd idx) t := by
  cases hx with
  | @rd _ r hr =>
    have again := Completes.rd (s := s.respond (s.regval r)) hr
    rwa [State.regval_respond] at again

/-- A second `WR` of the same index finds the same write data and the same width, so it writes what the first wrote. -/
theorem Completes.wr_again {s t : State} {idx : RegIdx} (hx : Completes s (.wr idx) t) : Completes t (.wr idx) t := by
  cases hx with
  | wrSB => exact .wrSB
  | wrUS => exact .wrUS
  | wrUE => exact .wrUE
  | wrUM => exact .wrUM
  | wrST => exact .wrST

/-! ## Performing a decoded word -/

/-- A legal word is executed (30_encoding.md R68). -/
theorem State.perform_of_decode {w : CmdWord} {i : Instr} (h : decode w = .ok i) (s : State) :
    s.perform w = exec i s := by
  rw [State.perform, h]

/-! ## One instance in a fleet -/

/-- Where an instance stands after its turn: at what its step answers, or where it stood if it has none. -/
def State.afterTurn (s : State) : State :=
  match step s with
  | .next t => t
  | _ => s

theorem State.afterTurn_of_next {s t : State} (h : step s = .next t) : s.afterTurn = t := by
  rw [State.afterTurn, h]

theorem State.afterTurn_of_no_next {s : State} (h : ∀ t, step s ≠ .next t) : s.afterTurn = s := by
  unfold State.afterTurn
  split
  case h_1 t ht => exact absurd ht (h t)
  case h_2 => rfl

/-- A turn of instance `k` replaces the state at place `k` alone (20_memory.md R61). -/
theorem stepInstance_eq_modify (k : Nat) (fleet : List State) :
    stepInstance k fleet = fleet.modify k State.afterTurn := by
  have turn (s : State) : s.afterTurn = match step s with | .next t => t | .fault _ => s | .refused _ => s := by
    unfold State.afterTurn
    cases step s <;> rfl
  rw [funext turn]
  rfl

theorem stepInstance_getElem?_self {fleet : List State} {k : Nat} {s : State} (h : fleet[k]? = some s) :
    (stepInstance k fleet)[k]? = some s.afterTurn := by
  rw [stepInstance_eq_modify, List.getElem?_modify_eq, h]
  rfl

theorem stepInstance_getElem?_of_ne {j k : Nat} (h : j ≠ k) (fleet : List State) :
    (stepInstance k fleet)[j]? = fleet[j]? := by
  rw [stepInstance_eq_modify, List.getElem?_modify_ne _ _ h.symm]

theorem stepInstance_length (k : Nat) (fleet : List State) : (stepInstance k fleet).length = fleet.length := by
  rw [stepInstance_eq_modify, List.length_modify]

/-- Turns of two different instances commute: each takes its own step, and reads and writes its own place alone. -/
theorem stepInstance_comm {j k : Nat} (h : j ≠ k) (fleet : List State) :
    stepInstance j (stepInstance k fleet) = stepInstance k (stepInstance j fleet) := by
  simp only [stepInstance_eq_modify]
  exact List.modify_modify_ne _ _ _ h.symm

end Sys2Proof.Machine
end

section
/-! SUPPORT. The statements on the register space, on the order of commands and on several instances (20_memory.md R55, R56,
R61). -/

open Sys2Proof Sys2Proof.Machine

/-- Settles O35: an access that completes has nothing left to change when it is repeated, and every other access is a command
error. -/
theorem readsAndWritesAreIdempotent : Obligations.ReadsAndWritesAreIdempotent := by
  intro s idx
  have hrd := commandErrorCause_rd_isSome idx
  have hwr := commandErrorCause_wr_isSome idx
  refine ⟨fun h => ?_, fun h => ?_, fun h => exec_of_cause s ?_, fun h => exec_of_cause s ?_⟩
  · rw [h] at hrd
    obtain ⟨t, hx, hc⟩ := exists_completes_of_no_cause hrd s
    exact ⟨t, hx, hc.sameRegisters_of_rd, hc.rd_again.exec_eq⟩
  · rw [h] at hwr
    obtain ⟨t, hx, hc⟩ := exists_completes_of_no_cause hwr s
    exact ⟨t, hx, hc.wr_again.exec_eq⟩
  · rw [hrd, h]; rfl
  · rw [hwr, h]; rfl

/-- Settles O37: the step accepts the transaction and performs its word, which is executed because it decodes. -/
theorem stepRunsTheDecodedCommand : Obligations.StepRunsTheDecodedCommand := by
  intro s t rest i hw he hd
  calc step s = (s.accept t rest).perform t.cmd := step_command hw he
    _ = exec i (s.accept t rest) := State.perform_of_decode hd _

/-- Settles O49: a turn replaces one place of the fleet by what that instance's own step answers. -/
theorem instancesAreIndependent : Obligations.InstancesAreIndependent := by
  refine ⟨fun fleet j k hne => ⟨stepInstance_getElem?_of_ne hne fleet, stepInstance_comm hne fleet⟩,
    fun fleet k s hs => ⟨fun t ht => ?_, fun hno => ?_⟩, fun fleet k => stepInstance_length k fleet⟩
  · rw [stepInstance_getElem?_self hs, State.afterTurn_of_next ht]
  · rw [stepInstance_getElem?_self hs, State.afterTurn_of_no_next hno]

end

section
/-! SUPPORT. The encoder and the decoder as inverses of each other, the command words as numbers, and what the named registers'
words and names stand for (30_encoding.md R62 to R71). -/

namespace Sys2Proof

open Sys2Proof.Machine

/-! ## The fields of a command's word -/

section
variable (i : Instr)

@[simp] theorem opField_encode : opField (encode i) = i.opcode :=
  (BitVec.extractLsb'_append_eq_of_le (by decide)).trans BitVec.extractLsb'_append_eq_left

@[simp] theorem rsvField_encode : rsvField (encode i) = 0 :=
  (BitVec.extractLsb'_append_eq_of_le (by decide)).trans BitVec.extractLsb'_append_eq_right

@[simp] theorem idxField_encode : idxField (encode i) = i.index := BitVec.extractLsb'_append_eq_right

/-- `OP` 0x5 to 0xF is no command's (30_encoding.md R65). -/
theorem Instr.opcode_le : i.opcode.toNat ≤ 4 := by
  cases i <;> simp [Instr.opcode]

/-- `NOP`, `UNPACK` and `PACK` have index zero (30_encoding.md R66). -/
theorem Instr.index_eq_zero (h : i.opcode.toNat ≤ 2) : i.index = 0 := by
  cases i with
  | nop | unpack | pack => rfl
  | rd idx | wr idx => simp [Instr.opcode] at h

/-- The decoder undoes the encoder (30_encoding.md R66, R68). -/
theorem decode_encode : decode (encode i) = .ok i := by
  unfold decode
  rw [opField_encode, rsvField_encode, idxField_encode, if_neg (not_not.mpr rfl)]
  cases i <;> rfl

/-- A command's word as a number: `OP` counts in units of 2^12, `IDX` in ones, and `RSV` is zero (30_encoding.md R63, R66). -/
theorem encode_toNat : (encode i).toNat = 0x1000 * i.opcode.toNat + i.index.toNat := by
  have hidx : i.index.toNat < 2 ^ 6 := i.index.isLt
  have hop : (i.opcode ++ (0 : BitVec 6)).toNat = i.opcode.toNat <<< 6 := by
    rw [BitVec.toNat_append]; exact Nat.or_zero _
  rw [encode, BitVec.toNat_append, hop, ← Nat.shiftLeft_add_eq_or_of_lt hidx, Nat.shiftLeft_eq, Nat.shiftLeft_eq]
  omega

end

/-- A word decodes to a command exactly when it is that command's word. -/
theorem decode_eq_ok_iff (w : CmdWord) (i : Instr) : decode w = .ok i ↔ encode i = w := by
  constructor
  · exact encode_of_decode
  · rintro rfl
    exact decode_encode i

/-- A word decodes to a command exactly when it is that command's number. -/
theorem decode_eq_ok_iff_toNat (w : CmdWord) (i : Instr) :
    decode w = .ok i ↔ w.toNat = 0x1000 * i.opcode.toNat + i.index.toNat := by
  rw [decode_eq_ok_iff, ← BitVec.toNat_inj, encode_toNat, eq_comm]

end Sys2Proof

namespace Sys2Proof.Machine

open Sys2Proof

/-! ## The named registers -/

/-- A register's name assembles to its index (30_encoding.md R69, R71). -/
theorem readRegister_of_mem : ∀ p ∈ registerNames, readRegister p.1.toList = .ok p.2 := by decide

/-- Every named register can be read (20_memory.md R49). -/
theorem readable_of_mem : ∀ p ∈ registerNames, readable p.2 = true := by decide

/-- Of the registers that can be read, those of the ROM's window are the ones `WR` fails on (42_access.md R103). -/
theorem commandErrorCause_wr_of_readable {idx : RegIdx} (h : readable idx = true) :
    (commandErrorCause (.wr idx)).isSome = decide (0x10 ≤ idx.toNat) := by
  have hr := (readable_iff idx).mp h
  have hw : writable idx = true ↔ ¬ 0x10 ≤ idx.toNat := by
    rw [writable_iff]; omega
  rw [commandErrorCause_wr_isSome, Bool.eq_iff_iff, Bool.not_eq_true', ← Bool.not_eq_true, hw, not_not, decide_eq_true_iff]

/-! ## Commands that do not read the write data -/

/-- No register's read value depends on the write data. -/
theorem State.regval_withWdata (s : State) (v : Word) (r : Reg) :
    State.regval { s with wdata := v } r = s.regval r := by
  cases r <;> rfl

/-- A command that is no `WR` completes beside any other write data, and carries them over unread (30_encoding.md R64). -/
theorem Completes.withWdata {s t : State} {i : Instr} (hx : Completes s i t) (hi : ∀ idx, i ≠ .wr idx) (v : Word) :
    Completes { s with wdata := v } i { t with wdata := v } := by
  cases hx with
  | nop => exact .nop
  | unpack => exact .unpack
  | pack => exact .pack
  | @rd _ r hr =>
    have h := Completes.rd (s := { s with wdata := v }) hr
    rwa [State.regval_withWdata] at h
  | wrSB | wrUS | wrUE | wrUM | wrST => exact absurd rfl (hi _)

end Sys2Proof.Machine
end

section
/-! SUPPORT. The statements on the command words, on the assembler's names and on the write data (30_encoding.md R64 to R71). -/

open Sys2Proof Sys2Proof.Machine

/-- Settles O1: the encoder puts a word's three fields together and the decoder takes them apart. -/
theorem decodeAndEncodeAgree : Obligations.DecodeAndEncodeAgree := decode_eq_ok_iff

/-- Settles O2: each listed word is its command's word, as a number where it has an index. -/
theorem exactlyTheListedWordsAreLegal : Obligations.ExactlyTheListedWordsAreLegal := by
  intro w
  refine ⟨?_, ?_, ?_, fun idx => decode_eq_ok_iff_toNat w (.rd idx), fun idx => decode_eq_ok_iff_toNat w (.wr idx)⟩
  all_goals
    rw [decode_eq_ok_iff, eq_comm]
    rfl

/-- Settles O38: a word with one of the three faults is no command's word, so performing it is a command error. -/
theorem illegalWordIsACommandError : Obligations.IllegalWordIsACommandError := by
  intro s t rest hw he hill
  rw [step_command hw he]
  rcases (s.accept t rest).perform_word_cases t.cmd with ⟨i, _, hcmd, _⟩ | ⟨_, hp⟩
  · rw [hcmd] at hill
    rcases hill with hop | hrsv | ⟨hop, hidx⟩
    · exact absurd i.opcode_le (Nat.not_le.mpr (opField_encode i ▸ hop))
    · exact absurd (rsvField_encode i) hrsv
    · exact absurd ((idxField_encode i).trans (i.index_eq_zero (opField_encode i ▸ hop))) hidx
  · rw [hp, State.raiseCerr_eq_withCommandError]
    rfl

/-- Settles O3: each row's words are those of its index's `RD` and `WR`, and its name is listed with that index. -/
theorem namedRegisterWordsDecodeAsListed : Obligations.NamedRegisterWordsDecodeAsListed := by
  intro row hrow
  have listed : encode (.rd row.2.1) = row.2.2.1 ∧ encode (.wr row.2.1) = row.2.2.2 ∧
      (row.1, row.2.1) ∈ registerNames := by
    revert row
    decide
  obtain ⟨hrd, hwr, hname⟩ := listed
  rw [← decode_eq_ok_iff] at hrd hwr
  refine ⟨hrd, hwr, readRegister_of_mem _ hname, ?_⟩
  rw [wordErrorCause_of_decode hwr]
  exact commandErrorCause_wr_of_readable (readable_of_mem _ hname)

/-- Settles O4: both sides are the same list of transactions by the definition of `AsmLine.expand`. -/
theorem pseudoCommandsExpandAsListed : Obligations.PseudoCommandsExpandAsListed :=
  fun _ _ _ _ => ⟨rfl, rfl, rfl, rfl⟩

/-- Settles O36: a command that is no `WR` completes or fails for a cause of its own, whatever the write data. -/
theorem onlyWrReadsTheWriteData : Obligations.OnlyWrReadsTheWriteData := by
  intro i s v hi
  rcases exec_cases i s with ⟨t, hx, hc, _⟩ | ⟨_, hcause⟩
  · exact ⟨t, hx, (hc.withWdata hi v).exec_eq⟩
  · exact ⟨s.withCommandError, exec_of_cause s hcause, exec_of_cause _ hcause⟩

end

section
/-! SUPPORT. The storage fields of a value and what unpack reads of them, the mantissa that narrowing keeps whole, and `UNPACK` as
slices of `SB` (40_unpack.md R72 to R81; 41_pack.md R88, R92). -/

namespace Sys2Proof

/-! ## The width of the wide mantissa -/

/-- The implicit bit is the one bit above the stored bits, so it is the top bit (10_state.md R29, R33). -/
theorem Cfg.mw_of_implicit {c : Cfg} (h : c.desc.implicit = true) : c.mw = c.desc.manW + c.g + 1 := by
  rw [Cfg.mw_eq, h, if_pos rfl]
  omega

theorem Cfg.mw_of_not_implicit {c : Cfg} (h : c.desc.implicit = false) : c.mw = c.desc.manW + c.g := by
  rw [Cfg.mw_eq, h, if_neg Bool.false_ne_true]
  rfl

end Sys2Proof

namespace Sys2Proof.Machine

open Sys2Proof

/-! ## Fields of a storage value -/

/-- A field is determined by its bits alone. -/
theorem field_eq_field_iff (x y off w : Nat) :
    field x off w = field y off w ↔ ∀ i, inField off w i → x.testBit i = y.testBit i := by
  constructor
  · intro h i ⟨hlo, hhi⟩
    have hbit := congrArg (·.testBit (i - off)) h
    simpa only [testBit_field, Nat.add_sub_cancel' hlo, decide_eq_true (Nat.sub_lt_left_of_lt_add hlo hhi),
      Bool.true_and] using hbit
  · intro h
    refine Nat.eq_of_testBit_eq fun j => ?_
    rw [testBit_field, testBit_field]
    by_cases hj : j < w
    · rw [h (off + j) ⟨by omega, by omega⟩]
    · simp [hj]

/-- What a mask leaves of a value is determined by the bits under the mask. -/
theorem and_eq_and_iff (x y m : Nat) :
    x &&& m = y &&& m ↔ ∀ i, m.testBit i = true → x.testBit i = y.testBit i := by
  constructor
  · intro h i hi
    simpa only [Nat.testBit_and, hi, Bool.and_true] using congrArg (·.testBit i) h
  · intro h
    refine Nat.eq_of_testBit_eq fun i => ?_
    rw [Nat.testBit_and, Nat.testBit_and]
    cases hi : m.testBit i with
    | false => rw [Bool.and_false, Bool.and_false]
    | true => rw [h i hi]

theorem ones_ne_zero {w : Nat} (h : 0 < w) : ones w ≠ 0 :=
  (Nat.sub_pos_of_lt (Nat.one_lt_two_pow h.ne')).ne'

theorem field_zero (off w : Nat) : field 0 off w = 0 := by
  rw [field, Nat.zero_shiftRight, Nat.zero_mod]

theorem field_or (x y off w : Nat) : field (x ||| y) off w = field x off w ||| field y off w := by
  rw [field, Nat.shiftRight_or_distrib, Nat.or_mod_two_pow, field, field]

/-- A field inside a word of ones is all ones. -/
theorem field_ones {off w t : Nat} (h : off + w ≤ t) : field (ones t) off w = ones w := by
  refine Nat.eq_of_testBit_eq fun i => ?_
  rw [testBit_field, testBit_ones, testBit_ones, ← Bool.decide_and, decide_eq_decide]
  omega

/-- A value placed at an offset is read back there. -/
theorem field_shiftLeft_self {v w : Nat} (h : v < 2 ^ w) (off : Nat) : field (v <<< off) off w = v := by
  rw [field, Nat.shiftLeft_shiftRight, Nat.mod_eq_of_lt h]

/-- A value placed in one field leaves a field that shares no bit with it zero. -/
theorem field_shiftLeft_of_disjoint {v w off off' w' : Nat} (h : v < 2 ^ w)
    (hd : ∀ i, ¬(inField off w i ∧ inField off' w' i)) : field (v <<< off) off' w' = 0 := by
  refine Nat.eq_of_testBit_eq fun i => ?_
  rw [testBit_field, Nat.testBit_shiftLeft, Nat.zero_testBit]
  by_cases hi : i < w' ∧ off ≤ off' + i
  · have hout := hd (off' + i)
    rw [testBit_eq_false_of_lt h (by omega), Bool.and_false, Bool.and_false]
  · rw [← Bool.and_assoc, ← Bool.decide_and, decide_eq_false hi, Bool.false_and]

/-- The three fields of an assembled value are the ones it was assembled from (41_pack.md R88). -/
theorem field_assemble {c : Cfg} (h : c.Wf) {sign e m : Nat} (hs : sign < 2) (he : e < 2 ^ c.desc.expW)
    (hm : m < 2 ^ c.desc.manW) :
    field (assemble c.desc sign e m) c.desc.signOff 1 = sign ∧
    field (assemble c.desc sign e m) c.desc.expOff c.desc.expW = e ∧
    field (assemble c.desc sign e m) c.desc.manOff c.desc.manW = m := by
  obtain ⟨hsignW, _⟩ := h.facts
  have hdisj := h.noSharedBit
  simp only [Descriptor.NoSharedBit, hsignW, forall_and] at hdisj
  obtain ⟨hse, hsm, hem⟩ := hdisj
  have hs' : sign < 2 ^ 1 := hs
  simp only [assemble, Nat.zero_or, field_or]
  refine ⟨?_, ?_, ?_⟩
  · rw [field_shiftLeft_self hs', field_shiftLeft_of_disjoint he fun i hi => hse i hi.symm,
      field_shiftLeft_of_disjoint hm fun i hi => hsm i hi.symm, Nat.or_zero, Nat.or_zero]
  · rw [field_shiftLeft_of_disjoint hs' hse, field_shiftLeft_self he,
      field_shiftLeft_of_disjoint hm fun i hi => hem i hi.symm, Nat.zero_or, Nat.or_zero]
  · rw [field_shiftLeft_of_disjoint hs' hsm, field_shiftLeft_of_disjoint he hem, field_shiftLeft_self hm,
      Nat.or_zero, Nat.zero_or]

/-! ## What unpack reads of a storage value -/

theorem Unpacked.ext {u v : Unpacked} (hs : u.sign = v.sign) (he : u.exp = v.exp) (hm : u.man = v.man) : u = v := by
  obtain ⟨_, _, _⟩ := u
  cases hs; cases he; cases hm
  rfl

theorem unpack_exp (c : Cfg) (x : Nat) : (unpack c x).exp = field x c.desc.expOff c.desc.expW := rfl

theorem unpack_man (c : Cfg) (x : Nat) :
    (unpack c x).man = alignMantissa c (unpack c x).exp (field x c.desc.manOff c.desc.manW) := rfl

/-- A zero exponent has no implicit bit (40_unpack.md R74). -/
theorem alignMantissa_zero (c : Cfg) (stored : Nat) : alignMantissa c 0 stored = stored <<< c.g := by
  rw [alignMantissa, implicitBit, if_neg (not_not.mpr rfl), Nat.zero_shiftLeft, Nat.or_zero, ite_self]

theorem alignMantissa_of_not_implicit {c : Cfg} (h : c.desc.implicit = false) (e stored : Nat) :
    alignMantissa c e stored = stored <<< c.g := by
  rw [alignMantissa, h, if_neg Bool.false_ne_true]

/-- The top bit of the wide mantissa tells whether the exponent is zero (40_unpack.md R81). -/
theorem testBit_unpack_man_top {c : Cfg} (h : c.desc.implicit = true) (x : Nat) :
    (unpack c x).man.testBit (c.mw - 1) = true ↔ (unpack c x).exp ≠ 0 := by
  have hstored : ¬(c.g ≤ c.desc.manW + c.g ∧ c.desc.manW + c.g < c.g + c.desc.manW) := by omega
  rw [Cfg.mw_of_implicit h, Nat.add_sub_cancel, testBit_unpack_man]
  simp only [h, hstored, decide_false, decide_true, Bool.false_and, Bool.false_or, Bool.true_and, Bool.and_true,
    decide_eq_true_eq]

/-- A stored bit of the wide mantissa is the bit of the mantissa field (40_unpack.md R75). -/
theorem testBit_unpack_man_stored (c : Cfg) (x : Nat) {i : Nat} (h : i < c.desc.manW) :
    (unpack c x).man.testBit (c.g + i) = (field x c.desc.manOff c.desc.manW).testBit i := by
  have himplicit : c.g + i ≠ c.desc.manW + c.g := by omega
  simp only [testBit_unpack_man, testBit_field, himplicit, h, Nat.le_add_right, Nat.add_lt_add_iff_left, and_self,
    decide_true, decide_false, Bool.and_false, Bool.or_false, Nat.add_sub_cancel_left]

/-- The stored bits of the wide mantissa are the mantissa field (40_unpack.md R81). -/
theorem unpack_man_stored (c : Cfg) (x : Nat) :
    ((unpack c x).man >>> c.g) &&& ones c.desc.manW = field x c.desc.manOff c.desc.manW := by
  refine Nat.eq_of_testBit_eq fun i => ?_
  rw [Nat.testBit_and, Nat.testBit_shiftRight, testBit_ones]
  by_cases hi : i < c.desc.manW
  · rw [testBit_unpack_man_stored c x hi, decide_eq_true hi, Bool.and_true]
  · rw [testBit_eq_false_of_lt (field_lt _ _ _) (Nat.not_lt.mp hi), decide_eq_false hi, Bool.and_false]

/-- Unpack reads the three fields, and loses nothing of them. -/
theorem unpack_eq_unpack_iff_fields (c : Cfg) (x y : Nat) :
    unpack c x = unpack c y ↔
      field x c.desc.signOff 1 = field y c.desc.signOff 1 ∧
      field x c.desc.expOff c.desc.expW = field y c.desc.expOff c.desc.expW ∧
      field x c.desc.manOff c.desc.manW = field y c.desc.manOff c.desc.manW := by
  constructor
  · intro h
    refine ⟨congrArg Unpacked.sign h, congrArg Unpacked.exp h, ?_⟩
    rw [← unpack_man_stored, h, unpack_man_stored]
  · rintro ⟨hs, he, hm⟩
    simp only [unpack, hs, he, hm]

/-- Two storage values unpack alike exactly when their significant bits agree (40_unpack.md R81). -/
theorem unpack_eq_unpack_iff {c : Cfg} (h : c.Wf) (x y : Nat) :
    unpack c x = unpack c y ↔ x &&& c.desc.significant = y &&& c.desc.significant := by
  obtain ⟨hsignW, _⟩ := h.facts
  simp only [unpack_eq_unpack_iff_fields, field_eq_field_iff, and_eq_and_iff, h.testBit_significant, hsignW,
    decide_eq_true_eq, or_imp, forall_and]

/-- The all-ones word unpacks to ones everywhere but in the guard bits (40_unpack.md R80). -/
theorem unpack_man_ones {c : Cfg} (h : c.Wf) (himpl : c.desc.implicit = true) :
    (unpack c (ones c.desc.totalW)).man = ones c.mw &&& complW c.mw c.guardMask := by
  obtain ⟨_, hexp, _, _, he, hm, _, _⟩ := h.facts
  have hne : (unpack c (ones c.desc.totalW)).exp ≠ 0 := by
    rw [unpack_exp, field_ones he]
    exact ones_ne_zero hexp
  have hguard : c.guardMask < 2 ^ c.mw := (ones_lt c.g).trans_le (Nat.pow_le_pow_right (by decide) c.g_le_mw)
  have hmw := Cfg.mw_of_implicit himpl
  refine Nat.eq_of_testBit_eq fun i => Bool.eq_iff_iff.mpr ?_
  rw [Nat.testBit_and, testBit_complW hguard]
  simp only [testBit_unpack_man, himpl, hne, testBit_ones, Cfg.guardMask, Bool.or_eq_true, Bool.and_eq_true,
    Bool.not_eq_true', decide_eq_true_eq, decide_eq_false_iff_not, ne_eq, not_false_eq_true, true_and]
  omega

/-! ## The mantissas that pack and unpack keep -/

theorem testBit_of_guard_zero {c : Cfg} {m i : Nat} (h : m &&& c.guardMask = 0) (hi : i < c.g) :
    m.testBit i = false := by
  have hmask := (c.testBit_guardMask i).mpr hi
  simpa only [Nat.testBit_and, hmask, Bool.and_true, Nat.zero_testBit] using congrArg (·.testBit i) h

/-- With zero guard bits nothing is rounded: both policies take the bits above the guard bits (41_pack.md R92). -/
theorem narrow_of_guard_zero {c : Cfg} {m : Nat} (h : m &&& c.guardMask = 0) (sign : Nat) :
    narrow c sign m = { cand := (m >>> c.g) &&& ones c.desc.manW, up := false } := by
  unfold narrow
  cases hp : c.policy with
  | trunc => simp only [narrowTrunc, Cfg.g, hp, RoundingPolicy.guardBits, Nat.shiftRight_zero]
  | rne =>
    have hg : m &&& 0b111 = 0 := by
      rw [Cfg.guardMask, Cfg.g, hp] at h
      exact h
    simp [narrowRne, hg, roundUp, Cfg.g, hp, RoundingPolicy.guardBits]

/-- With zero guard bits pack assembles the stored bits as they are and raises no flag (41_pack.md R88, R92). -/
theorem pack_of_guard_zero {c : Cfg} {m : Nat} (h : m &&& c.guardMask = 0) (sign e : Nat) :
    pack c sign e m =
      { bits := assemble c.desc sign e ((m >>> c.g) &&& ones c.desc.manW), movf := false, eovf := false } := by
  simp only [pack, narrow_of_guard_zero h, Bool.false_eq_true, if_false]

/-- A wide mantissa with zero guard bits, whose implicit bit agrees with the exponent, is what its stored bits unpack to. -/
theorem unpack_man_eq_of_consistent {c : Cfg} {x m : Nat} (hm : m < 2 ^ c.mw) (hguard : m &&& c.guardMask = 0)
    (hstored : field x c.desc.manOff c.desc.manW = (m >>> c.g) &&& ones c.desc.manW)
    (himpl : c.desc.implicit = true → (m.testBit (c.mw - 1) = true ↔ (unpack c x).exp ≠ 0)) :
    (unpack c x).man = m := by
  obtain ⟨_, _, hman⟩ := unpack_lt c x
  refine Nat.eq_of_testBit_eq fun i => ?_
  by_cases hlo : i < c.g
  · rw [testBit_of_guard_zero hguard hlo, testBit_of_guard_zero (unpack_man_and_guardMask c x) hlo]
  by_cases hmid : i < c.g + c.desc.manW
  · obtain ⟨j, rfl⟩ := Nat.exists_eq_add_of_le (Nat.not_lt.mp hlo)
    have hj : j < c.desc.manW := by omega
    rw [testBit_unpack_man_stored c x hj, hstored, Nat.testBit_and, Nat.testBit_shiftRight, testBit_ones,
      decide_eq_true hj, Bool.and_true]
  by_cases htop : i < c.mw
  · cases himp : c.desc.implicit with
    | false =>
      rw [Cfg.mw_of_not_implicit himp] at htop
      omega
    | true =>
      have hmw := Cfg.mw_of_implicit himp
      obtain rfl : i = c.mw - 1 := by omega
      rw [Bool.eq_iff_iff, testBit_unpack_man_top himp, himpl himp]
  · rw [testBit_eq_false_of_lt hman (Nat.not_lt.mp htop), testBit_eq_false_of_lt hm (Nat.not_lt.mp htop)]

/-! ## The command `UNPACK` -/

/-- The whole next state of `UNPACK`: what unpack yields fits the registers, so each is written whole (40_unpack.md R78). -/
theorem exec_unpack (s : State) :
    exec .unpack s = .next { s with
      us := BitVec.ofNat 1 (unpack s.cfg s.sb.toNat).sign
      ue := zextWord (unpack s.cfg s.sb.toNat).exp
      um := zextWord (unpack s.cfg s.sb.toNat).man
      resp := some { rdata := 0, cerr := false } } := by
  obtain ⟨_, he, hm⟩ := unpack_lt s.cfg s.sb.toNat
  have hue := congrArg zextWord (truncTo_eq_self he)
  have hum := congrArg zextWord (truncTo_eq_self hm)
  rw [Completes.unpack.exec_eq, ← hue, ← hum]
  rfl

/-- A second `UNPACK` finds `SB` and the configuration unchanged, so it leaves what the first left (40_unpack.md R80). -/
theorem Completes.unpack_again {s t : State} (hx : Completes s .unpack t) : Completes t .unpack t := by
  cases hx
  exact .unpack

/-- A field of a word is a slice of its bits (00_scope.md R10). -/
theorem field_toNat (v : Word) (off w : Nat) : field v.toNat off w = (v.extractLsb' off w).toNat :=
  (BitVec.extractLsb'_toNat off w v).symm

theorem field_toNat_ne_zero_iff (v : Word) (off w : Nat) : field v.toNat off w ≠ 0 ↔ v.extractLsb' off w ≠ 0 := by
  rw [field_toNat, not_iff_not, ← BitVec.toNat_inj]
  rfl

theorem zextWord_field_toNat (v : Word) (off w : Nat) :
    zextWord (field v.toNat off w) = (v.extractLsb' off w).setWidth 128 := by
  rw [field_toNat, zextWord, BitVec.ofNat_toNat]

/-- A value of a width the bus has fits the bus. -/
theorem lt_bus {v w : Nat} (hv : v < 2 ^ w) (h : w ≤ 128) : v < 2 ^ 128 :=
  hv.trans_le (Nat.pow_le_pow_right (by decide) h)

theorem zextWord_or (a b : Nat) : zextWord (a ||| b) = zextWord a ||| zextWord b := BitVec.ofNat_or

theorem zextWord_shiftLeft (v k : Nat) : zextWord (v <<< k) = zextWord v <<< k := by
  apply BitVec.eq_of_toNat_eq
  simp only [zextWord, BitVec.toNat_shiftLeft, BitVec.toNat_ofNat, Nat.shiftLeft_eq, Nat.mod_mul_mod]

/-- The wide mantissa on the bus: the stored bits above the guard bits, and the implicit bit (40_unpack.md R75, R76). -/
theorem zextWord_alignMantissa (c : Cfg) (e stored : Nat) :
    zextWord (alignMantissa c e stored) = (zextWord stored <<< c.g) |||
      (if c.desc.implicit = true ∧ e ≠ 0 then (1 : Word) <<< (c.desc.manW + c.g) else 0) := by
  cases himpl : c.desc.implicit with
  | false =>
    rw [alignMantissa_of_not_implicit himpl, zextWord_shiftLeft, if_neg fun h => Bool.false_ne_true h.1]
    exact BitVec.or_zero.symm
  | true =>
    by_cases he : e = 0
    · rw [he, alignMantissa_zero, zextWord_shiftLeft, if_neg fun h => h.2 rfl]
      exact BitVec.or_zero.symm
    · rw [alignMantissa, if_pos himpl, zextWord_or, zextWord_shiftLeft, zextWord_shiftLeft, implicitBit, if_pos he,
        if_pos ⟨rfl, he⟩]
      rfl

end Sys2Proof.Machine
end

section
/-! SUPPORT. The statements on unpack and on the command `UNPACK` (40_unpack.md R72 to R81). -/

open Sys2Proof Sys2Proof.Machine

/-- Settles O14: the wide mantissa holds the mantissa field whole and the exponent's implicit bit on top, and the three
fields are the significant bits. -/
theorem unpackObeysItsLaws : Obligations.UnpackObeysItsLaws :=
  fun c hw => ⟨fun x himpl => testBit_unpack_man_top himpl x, unpack_man_stored c,
    fun x y _ _ => unpack_eq_unpack_iff hw x y, rfl⟩

/-- Settles O15: the corner cases of the fields are those of unpack, and `UNPACK` reads `SB` and the configuration alone. -/
theorem unpackCornerCases : Obligations.UnpackCornerCases := by
  intro c hw
  obtain ⟨_, hexp, _, hs, he, hm, _, _⟩ := hw.facts
  refine ⟨fun x _ => ?padding, ?zero, fun x hzero => ?zeroExp, fun x himpl hones => ?onesExp, ?ones,
    fun s _ => ⟨_, Completes.unpack.exec_eq, Completes.unpack.unpack_again.exec_eq⟩, fun s t hs ht hsb => ?sameSB⟩
  case padding => rw [unpack_eq_unpack_iff hw, Nat.and_assoc, Nat.and_self]
  case zero => simp only [unpack, field_zero, alignMantissa_zero, Nat.zero_shiftLeft]
  case zeroExp => rw [unpack_man, hzero, alignMantissa_zero]
  case onesExp =>
    rw [testBit_unpack_man_top himpl, hones]
    exact ones_ne_zero hexp
  case ones =>
    have hman : (unpack c (ones c.desc.totalW)).man =
        if c.desc.implicit = true then ones c.mw &&& complW c.mw c.guardMask else ones c.desc.manW <<< c.g := by
      cases himpl : c.desc.implicit with
      | true => rw [unpack_man_ones hw himpl, if_pos rfl]
      | false => rw [unpack_man, alignMantissa_of_not_implicit himpl, field_ones hm, if_neg Bool.false_ne_true]
    exact Unpacked.ext (field_ones hs) (field_ones he) hman
  case sameSB =>
    refine ⟨_, _, exec_unpack s, exec_unpack t, ?_⟩
    simp only [hs, ht, hsb, and_self]

/-- Settles O18: pack assembles the stored bits unrounded, and unpack reads back the three fields; the guard bits and the
implicit bit, which are not stored, are the ones unpack infers. -/
theorem unpackOfPackKeepsConsistentValues : Obligations.UnpackOfPackKeepsConsistentValues := by
  intro c hw sign e m hs he hm hguard himpl
  have hcand : (m >>> c.g) &&& ones c.desc.manW < 2 ^ c.desc.manW := Nat.and_lt_two_pow _ (ones_lt _)
  obtain ⟨hsign, hexp, hstored⟩ := field_assemble hw hs he hcand
  rw [pack_of_guard_zero hguard]
  refine Unpacked.ext hsign hexp (unpack_man_eq_of_consistent hm hguard hstored fun h => ?_)
  rw [himpl h, unpack_exp, hexp]

/-- Settles O23: each field that `UNPACK` writes is a slice of `SB`. -/
theorem unpackSplitsTheStorageWord : Obligations.UnpackSplitsTheStorageWord := by
  intro s _
  have hus : BitVec.ofNat 1 (unpack s.cfg s.sb.toNat).sign = s.sb.extractLsb' s.cfg.desc.signOff 1 := by
    show BitVec.ofNat 1 (field s.sb.toNat s.cfg.desc.signOff 1) = _
    rw [field_toNat, BitVec.ofNat_toNat, BitVec.setWidth_eq]
  rw [exec_unpack, hus, unpack_man, zextWord_alignMantissa, unpack_exp, zextWord_field_toNat, zextWord_field_toNat]
  simp only [field_toNat_ne_zero_iff]

/-- Settles O24: what unpack yields fits the widths of the registers, and these fit the bus. -/
theorem unpackCommandAgreesWithUnpack : Obligations.UnpackCommandAgreesWithUnpack := by
  intro s hw
  obtain ⟨hsign, hexp, hman⟩ := unpack_lt s.cfg s.sb.toNat
  refine ⟨_, exec_unpack s, rfl, Unpacked.ext ?_ ?_ ?_⟩
  · exact (BitVec.toNat_ofNat _ _).trans (Nat.mod_eq_of_lt hsign)
  · exact zextWord_toNat (lt_bus hexp hw.1.expW_le)
  · exact zextWord_toNat (lt_bus hman hw.1.mw_le)

end

section
/-! SUPPORT. The rounding engine as arithmetic, the three ways pack ends, and `PACK` as the placing of its fields in `SB`
(41_pack.md R82 to R97). -/

namespace Sys2Proof

open Sys2Proof.Machine

/-- The significant bits are the bits of the three field masks (10_state.md R32). -/
theorem Cfg.Wf.significant_eq {c : Cfg} (h : c.Wf) :
    c.desc.significant = c.desc.signFmask ||| c.desc.expFmask ||| c.desc.manFmask := by
  refine Nat.eq_of_testBit_eq fun i => ?_
  simp only [h.testBit_significant, Nat.testBit_or, Descriptor.signFmask, Descriptor.expFmask, Descriptor.manFmask,
    testBit_mask, Bool.decide_or, Bool.or_assoc]

/-- The mantissa of a format after a carry out of it: zero below an implicit bit, else the leading stored bit alone
(41_pack.md R87). -/
def Cfg.renormalised (c : Cfg) : Nat := if c.desc.implicit then 0 else 1 <<< (c.desc.manW - 1)

end Sys2Proof

namespace Sys2Proof.Machine

open Sys2Proof

/-! ## The rounding engine -/

/-- Rounding up is for a guard value above half, and for a tie at an odd candidate (41_pack.md R85). -/
theorem roundUp_iff (g cand : Nat) : roundUp g cand = true ↔ 4 < g ∨ (g = 4 ∧ cand % 2 = 1) := by
  simp only [roundUp, Bool.or_eq_true, Bool.and_eq_true, decide_eq_true_eq, beq_iff_eq, Nat.testBit_zero]

section
variable {c : Cfg} (sign m : Nat)

theorem narrow_of_trunc (h : c.policy = .trunc) : narrow c sign m = { cand := m % 2 ^ c.desc.manW, up := false } := by
  rw [narrow, h, ← and_ones]
  rfl

/-- The candidate and the guard value under ties-to-even, as quotient and remainder (41_pack.md R84). -/
theorem narrow_of_rne (h : c.policy = .rne) :
    narrow c sign m =
      { cand := m / 8 % 2 ^ c.desc.manW, up := roundUp (m % 8) (m / 8 % 2 ^ c.desc.manW) } := by
  have hguard : m &&& 0b111 = m % 8 := and_ones m 3
  have hcand : (m >>> 3) &&& ones c.desc.manW = m / 8 % 2 ^ c.desc.manW := by
    rw [and_ones, Nat.shiftRight_eq_div_pow]
  rw [narrow, h, ← hguard, ← hcand]
  rfl

/-- When ties-to-even rounds up, on the mantissa itself. -/
theorem narrow_up_iff_of_rne (h : c.policy = .rne) :
    (narrow c sign m).up = true ↔ 4 < m % 8 ∨ (m % 8 = 4 ∧ m / 8 % 2 ^ c.desc.manW % 2 = 1) := by
  rw [narrow_of_rne sign m h]
  exact roundUp_iff _ _

/-- The largest candidate is odd, so it rounds up from half on (41_pack.md R92). -/
theorem narrow_up_iff_of_largest (hman : 0 < c.desc.manW) (h : c.policy = .rne)
    (hc : m / 8 % 2 ^ c.desc.manW = 2 ^ c.desc.manW - 1) : (narrow c sign m).up = true ↔ 4 ≤ m % 8 := by
  obtain ⟨w, hw⟩ := Nat.exists_eq_add_of_lt hman
  have hpow : 2 ^ c.desc.manW = 2 * 2 ^ w := by rw [hw, Nat.zero_add, Nat.pow_succ']
  have hpos := Nat.two_pow_pos w
  rw [narrow_up_iff_of_rne sign m h, hc]
  omega

end

/-- The stored and guard bits as one number: eight times the candidate, and the guard value. -/
theorem mod_two_pow_add_three (m w : Nat) : m % 2 ^ (w + 3) = 8 * (m / 8 % 2 ^ w) + m % 8 := by
  rw [Nat.pow_add, Nat.mul_comm, Nat.mod_mul, Nat.add_comm]

/-- Neither policy reads the sign (41_pack.md R97). -/
theorem narrow_sign (c : Cfg) (sign sign' m : Nat) : narrow c sign m = narrow c sign' m := by
  unfold narrow
  cases c.policy <;> rfl

/-- Narrowing reads the stored and the guard bits alone (41_pack.md R92). -/
theorem narrow_mod (c : Cfg) (sign m : Nat) : narrow c sign (m % 2 ^ (c.desc.manW + c.g)) = narrow c sign m := by
  cases hp : c.policy with
  | trunc =>
    have hg : c.g = 0 := by rw [Cfg.g, hp]; rfl
    rw [narrow_of_trunc _ _ hp, narrow_of_trunc _ _ hp, hg, Nat.add_zero, Nat.mod_mod]
  | rne =>
    have hg : c.g = 3 := by rw [Cfg.g, hp]; rfl
    have hquot : m % 2 ^ (c.desc.manW + 3) / 8 = m / 8 % 2 ^ c.desc.manW := by rw [mod_two_pow_add_three]; omega
    have hrem : m % 2 ^ (c.desc.manW + 3) % 8 = m % 8 := by rw [mod_two_pow_add_three]; omega
    rw [narrow_of_rne _ _ hp, narrow_of_rne _ _ hp, hg, hquot, hrem, Nat.mod_mod]

/-! ## The mantissa-overflow case -/

section
variable {c : Cfg} {cand e : Nat}

/-- `REFERENCE` wraps the largest mantissa to zero and keeps the exponent (41_pack.md R87). -/
theorem overflow_of_reference (h : c.ovf = .reference) (hc : cand = 2 ^ c.desc.manW - 1) :
    overflow c cand e = { man := 0, exp := e, eovf := false } := by
  have hwrap : truncTo c.desc.manW (cand + 1) = 0 := by
    rw [hc, Nat.sub_add_cancel (Nat.two_pow_pos _)]
    exact Nat.mod_self _
  rw [overflow, h, ← hwrap]

/-- `CARRY` below the top exponent carries into it. -/
theorem overflow_of_carry_lt (h : c.ovf = .carry) (he : e < 2 ^ c.desc.expW - 1) :
    overflow c cand e = { man := c.renormalised, exp := e + 1, eovf := false } := by
  rw [overflow, h]
  exact if_pos he

/-- `CARRY` at the top exponent keeps it and reports the exponent overflow. -/
theorem overflow_of_carry_top (h : c.ovf = .carry) (he : ¬ e < 2 ^ c.desc.expW - 1) :
    overflow c cand e = { man := c.renormalised, exp := e, eovf := true } := by
  rw [overflow, h]
  exact if_neg he

theorem overflow_exp (c : Cfg) (cand e : Nat) :
    (overflow c cand e).exp = if c.ovf = .carry ∧ e < 2 ^ c.desc.expW - 1 then e + 1 else e := by
  cases ho : c.ovf with
  | reference =>
    rw [if_neg fun h => nomatch h.1]
    simp only [overflow, ho]
  | carry =>
    by_cases he : e < 2 ^ c.desc.expW - 1
    · rw [overflow_of_carry_lt ho he, if_pos ⟨rfl, he⟩]
    · rw [overflow_of_carry_top ho he, if_neg fun h => he h.2]

theorem overflow_eovf_iff (c : Cfg) (cand e : Nat) :
    (overflow c cand e).eovf = true ↔ c.ovf = .carry ∧ ¬ e < 2 ^ c.desc.expW - 1 := by
  cases ho : c.ovf with
  | reference => simp [overflow, ho]
  | carry =>
    by_cases he : e < 2 ^ c.desc.expW - 1
    · simp [overflow_of_carry_lt ho he, he]
    · simp [overflow_of_carry_top ho he, he]

end

/-! ## The three ways pack ends -/

section
variable {c : Cfg} {sign e m : Nat}

/-- Not rounded up: the candidate is stored (41_pack.md R88). -/
theorem pack_of_not_up (h : (narrow c sign m).up = false) :
    pack c sign e m = { bits := assemble c.desc sign e (narrow c sign m).cand, movf := false, eovf := false } := by
  simp only [pack, h, Bool.false_eq_true, if_false]

/-- Rounded up below the largest mantissa: the next one is stored. -/
theorem pack_of_up_lt (h : (narrow c sign m).up = true) (hlt : (narrow c sign m).cand < 2 ^ c.desc.manW - 1) :
    pack c sign e m = { bits := assemble c.desc sign e ((narrow c sign m).cand + 1), movf := false, eovf := false } := by
  rw [← ones] at hlt
  simp only [pack, h, hlt, if_true]

/-- Rounded up at the largest mantissa: the mantissa-overflow case (41_pack.md R86, R87). -/
theorem pack_of_overflow (h : (narrow c sign m).up = true) (hc : (narrow c sign m).cand = 2 ^ c.desc.manW - 1) :
    pack c sign e m =
      { bits := assemble c.desc sign (overflow c (narrow c sign m).cand e).exp (overflow c (narrow c sign m).cand e).man
        movf := true
        eovf := (overflow c (narrow c sign m).cand e).eovf } := by
  have hnot : ¬ (narrow c sign m).cand < ones c.desc.manW := hc.not_lt
  simp only [pack, h, hnot, if_true, if_false]

/-- `movf` is the mantissa-overflow case (41_pack.md R86, R91). -/
theorem pack_movf_iff (c : Cfg) (sign e m : Nat) :
    (pack c sign e m).movf = true ↔
      (narrow c sign m).up = true ∧ (narrow c sign m).cand = 2 ^ c.desc.manW - 1 := by
  cases hup : (narrow c sign m).up with
  | false => simp only [pack_of_not_up hup, Bool.false_eq_true, false_and]
  | true =>
    by_cases hc : (narrow c sign m).cand = 2 ^ c.desc.manW - 1
    · simp only [pack_of_overflow hup hc, hc, and_self]
    · have hfit := narrow_lt c sign m
      have hlt : (narrow c sign m).cand < 2 ^ c.desc.manW - 1 := by omega
      simp only [pack_of_up_lt hup hlt, hc, Bool.false_eq_true, and_false]

/-- Pack either keeps the exponent and sets no flag, or ends in the mantissa-overflow case. -/
theorem pack_cases (c : Cfg) (sign e m : Nat) :
    (∃ man < 2 ^ c.desc.manW,
      pack c sign e m = { bits := assemble c.desc sign e man, movf := false, eovf := false }) ∨
    (∃ cand, pack c sign e m =
      { bits := assemble c.desc sign (overflow c cand e).exp (overflow c cand e).man
        movf := true
        eovf := (overflow c cand e).eovf }) := by
  have hfit := narrow_lt c sign m
  cases hup : (narrow c sign m).up with
  | false => exact .inl ⟨_, hfit, pack_of_not_up hup⟩
  | true =>
    by_cases hc : (narrow c sign m).cand = 2 ^ c.desc.manW - 1
    · exact .inr ⟨_, pack_of_overflow hup hc⟩
    · have hlt : (narrow c sign m).cand < 2 ^ c.desc.manW - 1 := by omega
      exact .inl ⟨_, by omega, pack_of_up_lt hup hlt⟩

/-- `eovf` is the mantissa-overflow case under `CARRY` at the top exponent (41_pack.md R87, R91). -/
theorem pack_eovf_iff (c : Cfg) (sign e m : Nat) :
    (pack c sign e m).eovf = true ↔
      c.ovf = .carry ∧ (pack c sign e m).movf = true ∧ ¬ e < 2 ^ c.desc.expW - 1 := by
  rcases pack_cases c sign e m with ⟨_, _, hp⟩ | ⟨cand, hp⟩
  · simp only [hp, Bool.false_eq_true, false_and, and_false]
  · simp only [hp, overflow_eovf_iff, true_and]

/-- Truncation places the three fields and does nothing else (41_pack.md R92). -/
theorem pack_of_trunc (h : c.policy = .trunc) (sign e m : Nat) :
    pack c sign e m =
      { bits := assemble c.desc sign e (m % 2 ^ c.desc.manW), movf := false, eovf := false } := by
  have hn := narrow_of_trunc sign m h
  rw [pack_of_not_up (by rw [hn]), hn]

/-- Pack reads the mantissa through narrowing alone. -/
theorem pack_of_narrow_eq {m' : Nat} (h : narrow c sign m = narrow c sign m') : pack c sign e m = pack c sign e m' := by
  rw [pack, h, pack]

section
variable (hw : c.Wf) (hs : sign < 2) (he : e < 2 ^ c.desc.expW)
include hw hs he

/-- No packed value has a padding bit (41_pack.md R89). -/
theorem pack_bits_and_padMask : (pack c sign e m).bits &&& c.desc.padMask = 0 := by
  obtain ⟨eo, mo, heo, hmo, hb⟩ := pack_bits_eq_assemble hw sign m he
  rw [hb]
  refine and_eq_zero_of_no_common_bit fun i hfield hpad => ?_
  rw [hw.testBit_padMask, decide_eq_true_eq] at hpad
  obtain ⟨_, hsign, hexp, hman⟩ := hpad
  rcases inField_of_testBit_assemble hw hs heo hmo hfield with h | h | h
  exacts [hsign h, hexp h, hman h]

/-- The exponent field written is the operand's, but for a carry into it (41_pack.md R87, R92). -/
theorem field_pack_exp : field (pack c sign e m).bits c.desc.expOff c.desc.expW =
    if (pack c sign e m).movf = true ∧ c.ovf = .carry ∧ e < 2 ^ c.desc.expW - 1 then e + 1 else e := by
  rcases pack_cases c sign e m with ⟨man, hman, hp⟩ | ⟨cand, hp⟩
  · obtain ⟨_, hexp, _⟩ := field_assemble hw hs he hman
    simp only [hp, hexp, Bool.false_eq_true, false_and, if_false]
  · obtain ⟨hman, hexp⟩ := overflow_lt hw cand he
    obtain ⟨_, hfield, _⟩ := field_assemble hw hs hexp hman
    rw [hp, hfield, overflow_exp]
    simp only [true_and]

end

end

/-! ## Packing what was unpacked -/

/-- A field put back at its offset is what its mask leaves of the value. -/
theorem field_shiftLeft_eq_and_mask (x off w : Nat) : field x off w <<< off = x &&& (ones w <<< off) := by
  refine Nat.eq_of_testBit_eq fun i => ?_
  rw [Nat.testBit_shiftLeft, testBit_field, Nat.testBit_and, testBit_mask]
  by_cases h : off ≤ i
  · rw [Nat.add_sub_cancel' h, decide_eq_true h, Bool.true_and, Bool.and_comm]
    congr 1
    rw [decide_eq_decide]
    omega
  · simp only [h, false_and, decide_false, Bool.false_and, Bool.and_false]

/-- The three fields of a value assemble to its significant bits. -/
theorem assemble_fields {c : Cfg} (h : c.Wf) (x : Nat) :
    assemble c.desc (field x c.desc.signOff 1) (field x c.desc.expOff c.desc.expW)
      (field x c.desc.manOff c.desc.manW) = x &&& c.desc.significant := by
  obtain ⟨hsignW, _⟩ := h.facts
  rw [h.significant_eq, Nat.and_or_distrib_left, Nat.and_or_distrib_left, Descriptor.signFmask, Descriptor.expFmask,
    Descriptor.manFmask, hsignW, assemble, Nat.zero_or, field_shiftLeft_eq_and_mask, field_shiftLeft_eq_and_mask,
    field_shiftLeft_eq_and_mask]

/-- The round-trip law (41_pack.md R95): unpack sets no guard bit and keeps the three fields. -/
theorem pack_unpack {c : Cfg} (h : c.Wf) (x : Nat) :
    pack c (unpack c x).sign (unpack c x).exp (unpack c x).man =
      { bits := x &&& c.desc.significant, movf := false, eovf := false } := by
  rw [pack_of_guard_zero (unpack_man_and_guardMask c x), unpack_man_stored, ← assemble_fields h]
  rfl

/-! ## The command `PACK` -/

/-- What pack yields of the operands in the registers (41_pack.md R90). -/
abbrev State.packed (s : State) : Packed := pack s.cfg s.us.toNat s.ue.toNat s.um.toNat

section
variable {s t : State}

/-- `PACK` keeps its operands and the configuration (41_pack.md R90). -/
theorem Completes.pack_operands (hx : Completes s .pack t) :
    t.cfg = s.cfg ∧ t.us = s.us ∧ t.ue = s.ue ∧ t.um = s.um := by
  cases hx
  exact ⟨rfl, rfl, rfl, rfl⟩

/-- `PACK` writes its two flags and keeps `CERR` (41_pack.md R90). -/
theorem Completes.pack_flags (hx : Completes s .pack t) :
    t.movf = s.packed.movf ∧
    t.eovf = s.packed.eovf ∧ t.cerr = s.cerr := by
  cases hx
  exact ⟨State.writePackFlags_movf _ _ _, State.writePackFlags_eovf _ _ _, State.writePackFlags_cerr _ _ _⟩

/-- A packed value of operands within their widths fits `SB`, so no bit of it is lost (41_pack.md R89, R93). -/
theorem State.Wf.pack_bits_lt (h : s.Wf) :
    s.packed.bits < 2 ^ s.cfg.desc.totalW := by
  obtain ⟨hc, _, he, _⟩ := h
  exact Machine.pack_bits_lt hc _ s.us.isLt he

theorem Completes.pack_sb (hx : Completes s .pack t) (h : s.Wf) :
    t.sb.toNat = s.packed.bits := by
  cases hx
  exact (zextWord_truncTo_toNat _ h.1.totalW_le).trans (truncTo_eq_self h.pack_bits_lt)

/-- A second `PACK` finds the operands and `CERR` unchanged, so it leaves what the first left (41_pack.md R92). -/
theorem Completes.pack_again (hx : Completes s .pack t) : Completes t .pack t := by
  obtain ⟨_, _, hcerr⟩ := hx.pack_flags
  have hst : stOf t.cerr s.packed.eovf s.packed.movf = stOf s.cerr s.packed.eovf s.packed.movf := by rw [hcerr]
  have again := Completes.pack (s := t)
  cases hx
  simp only [State.respond, State.writePackFlags, State.writeSB] at again hst ⊢
  rwa [hst] at again

end

/-- A word is its own number on the bus. -/
theorem zextWord_toNat_self (v : Word) : zextWord v.toNat = v := by
  rw [zextWord, BitVec.ofNat_toNat, BitVec.setWidth_eq]

theorem zextWord_mod_two_pow (v : Word) (w : Nat) : zextWord (v.toNat % 2 ^ w) = (v.setWidth w).setWidth 128 := by
  rw [← BitVec.toNat_setWidth, zextWord, BitVec.ofNat_toNat]

/-- An assembled storage value on the bus (41_pack.md R88). -/
theorem zextWord_assemble (d : Descriptor) (us : BitVec 1) (e m : Nat) :
    zextWord (assemble d us.toNat e m) = d.placed us (zextWord e) (zextWord m) := by
  have hsign : zextWord us.toNat = us.setWidth 128 := BitVec.ofNat_toNat 128 us
  rw [assemble, Nat.zero_or, zextWord_or, zextWord_or, zextWord_shiftLeft, zextWord_shiftLeft, zextWord_shiftLeft,
    hsign, Descriptor.placed]

theorem zextWord_renormalised (c : Cfg) :
    zextWord c.renormalised = if c.desc.implicit = true then 0 else (1 : Word) <<< (c.desc.manW - 1) := by
  rw [Cfg.renormalised, apply_ite zextWord, zextWord_shiftLeft]
  rfl

/-- `ST` after `PACK`: `CERR` as it was, beside the two flags (10_state.md R42). -/
theorem State.stOf_cerr (s : State) (eovf movf : Bool) :
    stOf s.cerr eovf movf = (s.st &&& 0b100) ||| stOf false eovf movf := by
  have h : ∀ (v : BitVec 3) (e m : Bool), stOf (v.getLsbD 2) e m = (v &&& 0b100) ||| stOf false e m := by decide
  exact h s.st eovf movf

theorem State.stOf_cerr_no_flags (s : State) : stOf s.cerr false false = s.st &&& 0b100 := by
  rw [State.stOf_cerr]
  exact BitVec.or_zero

/-- The whole next state of `PACK` within the invariant: the packed value fits `SB`, so it is written whole
(41_pack.md R90, R93). -/
theorem exec_pack {s : State} (h : s.Wf) {p : Packed} (hp : s.packed = p) :
    exec .pack s = .next { s with
      sb := zextWord p.bits
      st := stOf s.cerr p.eovf p.movf
      resp := some { rdata := 0, cerr := false } } := by
  have hsb := congrArg zextWord (truncTo_eq_self h.pack_bits_lt)
  rw [← hp, Completes.pack.exec_eq, ← hsb]
  rfl

/-- `PACK` of a value that pack assembles from its fields, on the bus. -/
theorem exec_pack_of_assemble {s : State} (h : s.Wf) {e m : Nat} {movf eovf : Bool}
    (hp : s.packed =
      { bits := assemble s.cfg.desc s.us.toNat e m, movf := movf, eovf := eovf }) :
    exec .pack s = .next { s with
      sb := s.cfg.desc.placed s.us (zextWord e) (zextWord m)
      st := stOf s.cerr eovf movf
      resp := some { rdata := 0, cerr := false } } := by
  rw [exec_pack h hp, ← zextWord_assemble]

/-- `PACK` without a flag leaves the exponent as `UE` has it, and `CERR` alone in `ST`. -/
theorem exec_pack_of_no_flags {s : State} (h : s.Wf) {m : Nat}
    (hp : s.packed =
      { bits := assemble s.cfg.desc s.us.toNat s.ue.toNat m, movf := false, eovf := false }) :
    exec .pack s = .next { s with
      sb := s.cfg.desc.placed s.us s.ue (zextWord m)
      st := s.st &&& 0b100
      resp := some { rdata := 0, cerr := false } } := by
  rw [exec_pack_of_assemble h hp, zextWord_toNat_self, State.stOf_cerr_no_flags]

/-- `PACK` in the mantissa-overflow case, by what the overflow policy makes of it (41_pack.md R86, R87). -/
theorem exec_pack_of_overflow {s : State} (h : s.Wf) (hp : s.cfg.policy = .rne)
    (hc : s.candidate = 2 ^ s.cfg.desc.manW - 1) (hg : 4 ≤ s.guardValue) {e man : Nat} {eovf : Bool}
    (ho : overflow s.cfg s.candidate s.ue.toNat = { man := man, exp := e, eovf := eovf }) :
    exec .pack s = .next { s with
      sb := s.cfg.desc.placed s.us (zextWord e) (zextWord man)
      st := (s.st &&& 0b100) ||| stOf false eovf true
      resp := some { rdata := 0, cerr := false } } := by
  obtain ⟨_, _, hman, _⟩ := h.1.facts
  have hnarrow : (narrow s.cfg s.us.toNat s.um.toNat).cand = s.candidate := by rw [narrow_of_rne _ _ hp]; rfl
  have hup := (narrow_up_iff_of_largest s.us.toNat s.um.toNat hman hp hc).mpr hg
  have hpack := pack_of_overflow (e := s.ue.toNat) hup (hnarrow.trans hc)
  rw [hnarrow, ho] at hpack
  rw [exec_pack_of_assemble h hpack, State.stOf_cerr]

end Sys2Proof.Machine
end

section
/-! SUPPORT. The statements on pack and on the command `PACK` (41_pack.md R82 to R97; 60_exceptions.md R110). -/

open Sys2Proof Sys2Proof.Machine

/-- Settles O16: what is packed is assembled from fields that fit their places, and `PACK` writes it whole. -/
theorem packIsCanonical : Obligations.PackIsCanonical := by
  refine ⟨fun c hw sign e m hs he _ => ⟨pack_bits_and_padMask hw hs he, pack_bits_lt hw m hs he⟩, fun s hw => ?_⟩
  have hx := Completes.pack (s := s)
  obtain ⟨hcfg, _⟩ := hx.pack_operands
  refine ⟨_, hx.exec_eq, ?_⟩
  rw [hx.pack_sb hw, hcfg]
  exact pack_bits_and_padMask hw.1 s.us.isLt hw.2.2.1

/-- Settles O17: the round-trip law of the functions, on the registers that hold what unpack yields. -/
theorem packOfUnpackKeepsTheSignificantBits : Obligations.PackOfUnpackKeepsTheSignificantBits := by
  refine ⟨fun c hw x _ => pack_unpack hw x, fun s hw => ?_⟩
  obtain ⟨t, ht, hsb, hoperands⟩ := unpackCommandAgreesWithUnpack s hw
  have hx : Completes s .unpack t := by
    cases Completes.unpack.exec_eq.symm.trans ht
    exact .unpack
  have hst : t.st = s.st := by cases hx; rfl
  have hpack := pack_unpack hw.1 s.sb.toNat
  rw [← hoperands, ← hx.cfg] at hpack
  refine ⟨t, ht, hsb, hst, ?_⟩
  rw [exec_pack (hx.wf hw) hpack, State.stOf_cerr_no_flags, hst, hx.cfg, zextWord, BitVec.ofNat_and,
    BitVec.ofNat_toNat, BitVec.setWidth_eq]

/-- Settles O19: with `v` written as eight times the candidate and the guard value, rounding is a case of the guard value. -/
theorem roundingIsToNearestEven : Obligations.RoundingIsToNearestEven := by
  refine ⟨fun c hp _ sign m => ?_, fun c hp sign m => narrow_of_trunc sign m hp, narrow_sign⟩
  have hcand : m / 8 % 2 ^ c.desc.manW = (narrow c sign m).cand := by rw [narrow_of_rne sign m hp]
  have hup := narrow_up_iff_of_rne sign m hp
  have hguard := Nat.mod_lt m (by decide : 0 < 8)
  simp only [mod_two_pow_add_three, hcand] at hup ⊢
  generalize (narrow c sign m).cand = cand, m % 8 = g at hup hguard ⊢
  by_cases h : (narrow c sign m).up = true
  · rw [if_pos h]
    have hround := hup.mp h
    omega
  · rw [if_neg h]
    have hstay := mt hup.mpr h
    omega

/-- Settles O20: each corner is a fact of narrowing, of the exponent field, or of repeating `PACK`. -/
theorem packCornerCases : Obligations.PackCornerCases := by
  intro c hw sign e m hs he _
  obtain ⟨_, hexpW, hman, _⟩ := hw.facts
  have hfield := field_pack_exp (m := m) hw hs he
  refine ⟨fun himpl => ?implicit, fun hp => ?trunc, fun hguard => ?guard, fun hp hc => ?largest, fun hp hone => ?oneBit,
    hfield, fun htop hovf hmovf => ?belowTop, fun s => ?again, pack_bits_and_padMask hw hs he⟩
  case implicit =>
    rw [Cfg.mw_of_implicit himpl, Nat.add_sub_cancel]
    exact (pack_of_narrow_eq (narrow_mod c sign m)).symm
  case trunc => rw [pack_of_trunc hp, assemble, Nat.zero_or]
  case guard => rw [narrow_of_guard_zero hguard, pack_of_guard_zero hguard]; exact ⟨rfl, rfl⟩
  case largest =>
    rw [pack_movf_iff, narrow_up_iff_of_largest sign m hman hp hc, narrow_of_rne sign m hp]
    exact and_iff_left hc
  case oneBit =>
    rw [pack_movf_iff, ← Bool.not_eq_true, narrow_up_iff_of_rne sign m hp, narrow_of_rne sign m hp, hone]
    dsimp only
    omega
  case belowTop =>
    have hpow : 2 ^ 1 ≤ 2 ^ c.desc.expW := Nat.pow_le_pow_right (by decide) hexpW
    have hlt : e < 2 ^ c.desc.expW - 1 := by omega
    rw [hfield, if_pos ⟨hmovf, hovf, hlt⟩, ← Bool.not_eq_true, pack_eovf_iff]
    exact ⟨by omega, fun h => h.2.2 hlt⟩
  case again =>
    have hx := Completes.pack (s := s)
    exact ⟨_, hx.exec_eq, hx.pack_again.exec_eq⟩

/-- Settles O25: truncation places the fields with the low bits of `UM`. -/
theorem packUnderTruncation : Obligations.PackUnderTruncation := by
  intro s hw hp
  rw [exec_pack_of_no_flags hw (pack_of_trunc hp _ _ _), zextWord_mod_two_pow]

/-- Settles O26: outside the overflow case pack stores the candidate, or the next one where it rounds up. -/
theorem packRoundsTiesToEven : Obligations.PackRoundsTiesToEven := by
  intro s hw hp
  have hn : narrow s.cfg s.us.toNat s.um.toNat =
      { cand := s.candidate, up := roundUp s.guardValue s.candidate } := narrow_of_rne _ _ hp
  have hup := roundUp_iff s.guardValue s.candidate
  refine ⟨fun hdown => ?down, fun hround hlt => ?up⟩
  case down =>
    have hstay : roundUp s.guardValue s.candidate = false := by
      rw [← Bool.not_eq_true, hup]
      omega
    have hpack := pack_of_not_up (e := s.ue.toNat) (congrArg Narrowed.up hn |>.trans hstay)
    rw [hn] at hpack
    exact exec_pack_of_no_flags hw hpack
  case up =>
    have hpack := pack_of_up_lt (e := s.ue.toNat) (congrArg Narrowed.up hn |>.trans (hup.mpr hround.symm))
      ((congrArg Narrowed.cand hn).trans_lt hlt)
    rw [hn] at hpack
    exact exec_pack_of_no_flags hw hpack

/-- Settles O27: the three results of the overflow policies, on the bus. -/
theorem packHandlesMantissaOverflow : Obligations.PackHandlesMantissaOverflow := by
  intro s hw hp hc hg
  have hcarried : zextWord (s.ue.toNat + 1) = s.ue + 1 := by
    rw [zextWord, BitVec.ofNat_add, BitVec.ofNat_toNat, BitVec.setWidth_eq]
    rfl
  rw [← zextWord_renormalised]
  refine ⟨fun ho => ?reference, fun ho he => ?carry, fun ho he => ?top⟩
  case reference =>
    rw [exec_pack_of_overflow hw hp hc hg (overflow_of_reference ho hc), zextWord_toNat_self]
    rfl
  case carry =>
    rw [exec_pack_of_overflow hw hp hc hg (overflow_of_carry_lt ho he), hcarried]
    rfl
  case top =>
    rw [exec_pack_of_overflow hw hp hc hg (overflow_of_carry_top ho he.not_lt), zextWord_toNat_self]
    rfl

/-- Settles O28: the flags are pack's, whose `movf` is the overflow case of narrowing and whose `eovf` needs `movf`. -/
theorem packFlagsMeanMantissaAndExponentOverflow : Obligations.PackFlagsMeanMantissaAndExponentOverflow := by
  intro s hw
  have hx := Completes.pack (s := s)
  obtain ⟨hmovf, heovf, hcerr⟩ := hx.pack_flags
  refine ⟨_, hx.exec_eq, ?_⟩
  rw [hmovf, heovf]
  refine ⟨?movf, ?eovf, fun h => ((pack_eovf_iff _ _ _ _).mp h).2.1, fun hp => ?trunc, hcerr⟩
  case movf =>
    rw [pack_movf_iff]
    cases hp : s.cfg.policy with
    | trunc => simp [narrow_of_trunc _ _ hp]
    | rne =>
      rw [narrow_up_iff_of_rne _ _ hp, narrow_of_rne _ _ hp, eq_self, true_and]
      exact and_comm
  case eovf =>
    obtain ⟨_, _, he, _⟩ := hw
    have htop : ¬ s.ue.toNat < 2 ^ s.cfg.desc.expW - 1 ↔ s.ue.toNat = 2 ^ s.cfg.desc.expW - 1 := by omega
    rw [pack_eovf_iff, htop]
  case trunc => rw [State.packed, pack_of_trunc hp]; exact ⟨rfl, rfl⟩

/-- Settles O29: `PACK` writes pack's three results whole and none of its operands. -/
theorem packCommandAgreesWithPack : Obligations.PackCommandAgreesWithPack := by
  intro s hw
  have hx := Completes.pack (s := s)
  obtain ⟨_, hus, hue, hum⟩ := hx.pack_operands
  obtain ⟨hmovf, heovf, _⟩ := hx.pack_flags
  refine ⟨_, hx.exec_eq, hus, hue, hum, ?_⟩
  rw [hx.pack_sb hw, hmovf, heovf]

end

section
/-! SUPPORT. What `RD` reads of the register an index names, what `WR` puts into each register as bits of the write data, and the
causes of the accesses that fail (42_access.md R99 to R103; 60_exceptions.md R111). -/

namespace Sys2Proof.Machine

open Sys2Proof

/-! ## Reading a register -/

section
variable {idx : RegIdx} {r : Reg} (hr : Reg.ofIdx idx = some r)
include hr

/-- `RD` of an index that names a register returns the register's read value and changes nothing else (42_access.md R101). -/
theorem exec_rd_of_named (s : State) :
    exec (.rd idx) s = .next { s with resp := some { rdata := s.regval r, cerr := false } } :=
  (Completes.rd hr).exec_eq

/-- An index of a known number names the register of that number. -/
theorem Reg.eq_of_index_toNat {k : RegIdx} {q : Reg} (hi : idx.toNat = k.toNat) (hq : Reg.ofIdx k = some q) : r = q := by
  obtain rfl := BitVec.eq_of_toNat_eq hi
  exact Option.some.inj (hr.symm.trans hq)

/-- An index of the ROM's window reads the same in every state of the same configuration (10_state.md R34, R35). -/
theorem regval_of_rom_index {s t : State} (hlo : 0x10 ≤ idx.toNat) (hhi : idx.toNat ≤ 0x25) (hc : t.cfg = s.cfg) :
    t.regval r = s.regval r := by
  obtain ⟨q, hq⟩ := Reg.ofIdx_rom hlo hhi
  obtain rfl : r = .rom q := Option.some.inj (hr.symm.trans hq)
  exact congrArg (romValue · q) hc

end

/-- The number `US` reads as: zero-extension keeps it (20_memory.md R51). -/
theorem State.regval_us_toNat (s : State) : (s.regval .us).toNat = s.us.toNat :=
  BitVec.toNat_setWidth_of_le (by decide)

/-- The number `ST` reads as: its three bits at their places (42_access.md R100). -/
theorem State.regval_st_toNat (s : State) :
    (s.regval .st).toNat = 4 * s.cerr.toNat + 2 * s.eovf.toNat + s.movf.toNat := by
  have bits : ∀ v : BitVec 3, v.toNat = 4 * (v.getLsbD 2).toNat + 2 * (v.getLsbD 1).toNat + (v.getLsbD 0).toNat := by
    decide
  calc (s.regval .st).toNat = s.st.toNat := BitVec.toNat_setWidth_of_le (by decide)
    _ = _ := bits s.st

/-! ## Writing a register from the write data -/

section
variable (s : State) (v : Word)

theorem State.writeSB_toNat :
    s.writeSB v.toNat = { s with sb := (v.setWidth s.cfg.desc.totalW).setWidth 128 } := by
  rw [State.writeSB, truncTo, zextWord_mod_two_pow]

theorem State.writeUS_toNat : s.writeUS v.toNat = { s with us := v.setWidth 1 } := by
  rw [State.writeUS, BitVec.ofNat_toNat]

theorem State.writeUE_toNat :
    s.writeUE v.toNat = { s with ue := (v.setWidth s.cfg.desc.expW).setWidth 128 } := by
  rw [State.writeUE, truncTo, zextWord_mod_two_pow]

theorem State.writeUM_toNat : s.writeUM v.toNat = { s with um := (v.setWidth s.cfg.mw).setWidth 128 } := by
  rw [State.writeUM, truncTo, zextWord_mod_two_pow]

theorem State.writeST_eq : s.writeST v = { s with st := v.setWidth 3 } := by
  have low : stOf (v.getLsbD 2) (v.getLsbD 1) (v.getLsbD 0) = v.setWidth 3 := by
    rw [← stOf_bits (v.setWidth 3)]
    simp only [BitVec.getLsbD_setWidth, Nat.reduceLT, decide_true, Bool.true_and]
  rw [State.writeST, low]

end

/-! ## The causes of a failing access -/

/-- `RD` of a reserved index fails for the cause `RD_RESERVED` (60_exceptions.md R111). -/
theorem commandErrorCause_rd_of_not_readable {idx : RegIdx} (h : readable idx = false) :
    commandErrorCause (.rd idx) = some .rdReserved := by
  simp only [commandErrorCause, h, Bool.false_eq_true, if_false]

/-- `WR` above `ST` fails for `WR_READONLY` in the ROM's window and for `WR_RESERVED` outside it (60_exceptions.md R111). -/
theorem commandErrorCause_wr_of_not_writable {idx : RegIdx} (h : 0x05 ≤ idx.toNat) :
    commandErrorCause (.wr idx) =
      if 0x10 ≤ idx.toNat ∧ idx.toNat ≤ 0x25 then some .wrReadonly else some .wrReserved := by
  have hw : ¬ writable idx = true := by rw [writable_iff]; omega
  have hr : readable idx = true ↔ 0x10 ≤ idx.toNat ∧ idx.toNat ≤ 0x25 := by rw [readable_iff]; omega
  rw [commandErrorCause, if_neg hw]
  exact if_congr hr rfl rfl

end Sys2Proof.Machine
end

section
/-! SUPPORT. The statements on `NOP`, `RD` and `WR` (42_access.md R98 to R103). -/

open Sys2Proof Sys2Proof.Machine

/-- Settles O30: a readable index names a register, `RD` answers its read value, and a ROM register's value is the
configuration's. -/
theorem rdReturnsTheRegister : Obligations.RdReturnsTheRegister := by
  intro s idx h
  obtain ⟨r, hr⟩ : ∃ r, Reg.ofIdx idx = some r := Option.isSome_iff_exists.mp ((readable_iff idx).mpr h)
  refine ⟨s.regval r, exec_rd_of_named hr s, fun hi => ?sb, fun hi => ?us, fun hi => ?ue, fun hi => ?um, fun hi => ?st,
    fun hlo t hc => ?rom⟩
  case sb => rw [Reg.eq_of_index_toNat hr (k := 0x00) hi rfl]; rfl
  case us => rw [Reg.eq_of_index_toNat hr (k := 0x01) hi rfl, s.regval_us_toNat]
  case ue => rw [Reg.eq_of_index_toNat hr (k := 0x02) hi rfl]; rfl
  case um => rw [Reg.eq_of_index_toNat hr (k := 0x03) hi rfl]; rfl
  case st => rw [Reg.eq_of_index_toNat hr (k := 0x04) hi rfl, s.regval_st_toNat]
  case rom =>
    have hhi : idx.toNat ≤ 0x25 := by omega
    rw [exec_rd_of_named hr t, regval_of_rom_index hr hlo hhi hc]

/-- Settles O33: each `WR` completes with its register's write, which keeps the low bits of the write data. -/
theorem wrWritesTheLowBits : Obligations.WrWritesTheLowBits := by
  intro s
  refine ⟨?sb, ?us, ?ue, ?um, ?st⟩
  case sb => rw [Completes.wrSB.exec_eq, State.writeSB_toNat]; rfl
  case us => rw [Completes.wrUS.exec_eq, State.writeUS_toNat]; rfl
  case ue => rw [Completes.wrUE.exec_eq, State.writeUE_toNat]; rfl
  case um => rw [Completes.wrUM.exec_eq, State.writeUM_toNat]; rfl
  case st => rw [Completes.wrST.exec_eq, State.writeST_eq]; rfl

/-- Settles O22: `NOP` completes, and its completion is the response alone. -/
theorem nopOnlyResponds : Obligations.NopOnlyResponds := fun _ => Completes.nop.exec_eq

/-- Settles O32: a reserved index is not readable, so `RD` of it has the cause `RD_RESERVED` and is a command error. -/
theorem rdOfAReservedIndexIsACommandError : Obligations.RdOfAReservedIndexIsACommandError := by
  intro s idx h
  have hr : readable idx = false := by
    rw [← Bool.not_eq_true, readable_iff]
    omega
  have hcause := commandErrorCause_rd_of_not_readable hr
  exact ⟨exec_of_cause s (Option.isSome_of_eq_some hcause), hcause⟩

/-- Settles O34: no index above `ST` is writable, and the cause is read off whether it is readable. -/
theorem wrOfOtherIndicesIsACommandError : Obligations.WrOfOtherIndicesIsACommandError :=
  fun s _ h => ⟨exec_wr_of_not_writable h s, commandErrorCause_wr_of_not_writable h⟩

end

section
/-! SUPPORT. The cause of every command word, by ranges of words, the response of a command that completes, and the idle step
(30_encoding.md R66; 60_exceptions.md R109 to R113). -/

namespace Sys2Proof.Machine

open Sys2Proof

/-! ## The cause of a word -/

/-- `RD` fails on the reserved indices alone (60_exceptions.md R111). -/
theorem commandErrorCause_rd (idx : RegIdx) : commandErrorCause (.rd idx) =
    if idx.toNat ≤ 0x04 ∨ (0x10 ≤ idx.toNat ∧ idx.toNat ≤ 0x25) then none else some .rdReserved :=
  if_congr (readable_iff idx) rfl rfl

/-- `WR` fails on every index above `ST`, and the ROM's window tells which cause it has (60_exceptions.md R111). -/
theorem commandErrorCause_wr (idx : RegIdx) : commandErrorCause (.wr idx) =
    if idx.toNat ≤ 0x04 then none
    else if 0x10 ≤ idx.toNat ∧ idx.toNat ≤ 0x25 then some .wrReadonly else some .wrReserved := by
  split
  case isTrue h => rw [commandErrorCause, if_pos ((writable_iff idx).mpr h)]
  case isFalse h => exact commandErrorCause_wr_of_not_writable (by omega)

section
variable {w : CmdWord}

/-- Each of the 64 words from `base` on is `base` plus an index. -/
theorem exists_index_of_word {base : Nat} (hlo : base ≤ w.toNat) (hhi : w.toNat ≤ base + 0x3F) :
    ∃ idx : RegIdx, w.toNat = base + idx.toNat := by
  refine ⟨BitVec.ofNat 6 (w.toNat - base), ?_⟩
  rw [BitVec.toNat_ofNat]
  omega

/-- The causes of the words of `RD`. -/
theorem wordErrorCause_of_rd_word (hlo : 0x3000 ≤ w.toNat) (hhi : w.toNat ≤ 0x303F) : wordErrorCause w =
    if w.toNat ≤ 0x3004 ∨ (0x3010 ≤ w.toNat ∧ w.toNat ≤ 0x3025) then none else some .rdReserved := by
  obtain ⟨idx, hidx⟩ := exists_index_of_word hlo hhi
  rw [wordErrorCause_of_decode ((decode_eq_ok_iff_toNat w (.rd idx)).mpr hidx), commandErrorCause_rd]
  exact if_congr (by omega) rfl rfl

/-- The causes of the words of `WR`. -/
theorem wordErrorCause_of_wr_word (hlo : 0x4000 ≤ w.toNat) (hhi : w.toNat ≤ 0x403F) : wordErrorCause w =
    if w.toNat ≤ 0x4004 then none
    else if 0x4010 ≤ w.toNat ∧ w.toNat ≤ 0x4025 then some .wrReadonly else some .wrReserved := by
  obtain ⟨idx, hidx⟩ := exists_index_of_word hlo hhi
  rw [wordErrorCause_of_decode ((decode_eq_ok_iff_toNat w (.wr idx)).mpr hidx), commandErrorCause_wr]
  exact if_congr (by omega) rfl (if_congr (by omega) rfl rfl)

/-- A word outside the listed ones is no command's (30_encoding.md R66, R67). -/
theorem wordErrorCause_of_other_word (hplain : ¬(w = 0x0000 ∨ w = 0x1000 ∨ w = 0x2000))
    (hrd : ¬(0x3000 ≤ w.toNat ∧ w.toNat ≤ 0x303F)) (hwr : ¬(0x4000 ≤ w.toNat ∧ w.toNat ≤ 0x403F)) :
    wordErrorCause w = some .illegalWord := by
  cases hd : decode w with
  | error e => exact wordErrorCause_of_illegal hd
  | ok i =>
    obtain rfl := encode_of_decode hd
    have hnum := encode_toNat i
    cases i with
    | nop => exact absurd (.inl rfl) hplain
    | unpack => exact absurd (.inr (.inl rfl)) hplain
    | pack => exact absurd (.inr (.inr rfl)) hplain
    | rd idx =>
      have hidx : idx.toNat < 64 := idx.isLt
      change _ = 0x3000 + idx.toNat at hnum
      omega
    | wr idx =>
      have hidx : idx.toNat < 64 := idx.isLt
      change _ = 0x4000 + idx.toNat at hnum
      omega

end

/-! ## What a step answers -/

/-- A command that completes returns `cerr = 0` (60_exceptions.md R113). -/
theorem Completes.resp {s t : State} {i : Instr} (hx : Completes s i t) : ∃ r, t.resp = some r ∧ r.cerr = false := by
  cases hx <;> exact ⟨_, rfl, rfl⟩

/-- With nothing issued the core holds its state (70_reset_and_hazards.md R132). -/
theorem step_idle {s : State} (hw : s.cfg.Wf) (he : s.events = []) : step s = .next s := by
  rw [step, if_pos hw, State.serve, he]

end Sys2Proof.Machine
end

section
/-! SUPPORT. The statements on command errors and on the completion of every step (60_exceptions.md R109 to R118). -/

open Sys2Proof Sys2Proof.Machine

/-- Settles O41: every event is performed to a next state, and the step without one answers the state itself. -/
theorem everyStepOfAnInstanceCompletes : Obligations.EveryStepOfAnInstanceCompletes :=
  fun _ hw => ⟨step_next hw, step_idle hw⟩

/-- Settles O48: the words fall into those of the commands without an index, of `RD`, of `WR` and of none; and performing a word
completes or is the command error of R113. -/
theorem commandErrorsHaveExactlyTheListedCauses : Obligations.CommandErrorsHaveExactlyTheListedCauses := by
  refine ⟨fun w => ?causes, ⟨rfl, rfl, rfl, rfl⟩, fun s x rest hw he => ?outcome⟩
  case causes =>
    by_cases hplain : w = 0x0000 ∨ w = 0x1000 ∨ w = 0x2000
    · rcases hplain with rfl | rfl | rfl <;> decide
    by_cases hrd : 0x3000 ≤ w.toNat ∧ w.toNat ≤ 0x303F
    · obtain ⟨hlo, hhi⟩ := hrd
      rw [wordErrorCause_of_rd_word hlo hhi]
      split_ifs <;> simp [hlo, hhi] <;> omega
    by_cases hwr : 0x4000 ≤ w.toNat ∧ w.toNat ≤ 0x403F
    · obtain ⟨hlo, hhi⟩ := hwr
      rw [wordErrorCause_of_wr_word hlo hhi]
      split_ifs <;> simp [hlo, hhi] <;> omega
    · rw [wordErrorCause_of_other_word hplain hrd hwr]
      obtain ⟨hnop, hunpack, hpack⟩ : w ≠ 0x0000 ∧ w ≠ 0x1000 ∧ w ≠ 0x2000 := by simpa only [not_or] using hplain
      exact ⟨iff_of_false nofun (by omega), iff_of_false nofun (by omega), iff_of_false nofun (by omega),
        iff_of_true rfl ⟨hnop, hunpack, hpack, hrd, hwr⟩⟩
  case outcome =>
    rw [step_command hw he]
    rcases (s.accept x rest).perform_word_cases x.cmd with ⟨_, t, _, hnone, hp, hx⟩ | ⟨hcause, hp⟩
    · obtain ⟨r, hr, hcerr⟩ := hx.resp
      exact ⟨fun h => by simp [hnone] at h, fun _ => ⟨t, r, hp, hr, hcerr⟩⟩
    · refine ⟨fun _ => ?_, fun h => by simp [h] at hcause⟩
      rw [hp, State.raiseCerr_eq_withCommandError]
      rfl

end

section
/-! SUPPORT. The failures of a request: the order they are reported in, and when each is one of them (60_exceptions.md R107). -/

namespace Sys2Proof

open Sys2Proof.Machine

/-! ## The order of the failures -/

theorem failUnless_sublist (b : Bool) (f : ConfigFailure) : (failUnless b f).Sublist [f] := by
  cases b <;> simp [failUnless]

/-- The layout's failures come in the order of the first six rows of R107. -/
theorem Descriptor.layoutFailures_sublist (d : Descriptor) (p : Option RoundingPolicy) :
    (d.layoutFailures p).Sublist [.zeroWidth, .fieldBounds, .totalTooSmall, .overlap, .widthRange, .signWidth] :=
  (((((failUnless_sublist _ _).append (failUnless_sublist _ _)).append (failUnless_sublist _ _)).append
    (failUnless_sublist _ _)).append (failUnless_sublist _ _)).append (failUnless_sublist _ _)

/-- The failures of a request that names a format: its descriptor is checked. -/
theorem ConfigRequest.failures_of_format {r : ConfigRequest} {f : Format} (h : r.format = some f) :
    r.failures = f.desc.layoutFailures (RoundingPolicy.ofCode r.policy) ++
      failUnless (RoundingPolicy.ofCode r.policy).isSome .policy ++
      failUnless (OverflowPolicy.ofCode r.ovfPolicy).isSome .ovfPolicy ++ failUnless f.desc.biasInRange .biasRange := by
  simp [ConfigRequest.failures, h, failUnless]

/-- The failures of a request that names no format: there is no descriptor to check (assumption log 9). -/
theorem ConfigRequest.failures_of_no_format {r : ConfigRequest} (h : r.format = none) :
    r.failures = failUnless (RoundingPolicy.ofCode r.policy).isSome .policy ++
      failUnless (OverflowPolicy.ofCode r.ovfPolicy).isSome .ovfPolicy ++ [.fmtId] := by
  simp [ConfigRequest.failures, h, failUnless]

/-- The failures of a request come in the order of R107's table, each once. -/
theorem ConfigRequest.failures_sublist (r : ConfigRequest) :
    r.failures.Sublist [.zeroWidth, .fieldBounds, .totalTooSmall, .overlap, .widthRange, .signWidth, .policy, .ovfPolicy,
      .fmtId, .biasRange] := by
  cases hf : r.format with
  | some f =>
    rw [ConfigRequest.failures_of_format hf]
    exact ((((Descriptor.layoutFailures_sublist _ _).append (failUnless_sublist _ _)).append
      (failUnless_sublist _ _)).append (failUnless_sublist _ _)).trans (by decide)
  | none =>
    rw [ConfigRequest.failures_of_no_format hf]
    exact (((failUnless_sublist _ _).append (failUnless_sublist _ _)).append (List.Sublist.refl _)).trans (by decide)

/-! ## The values that name nothing -/

theorem RoundingPolicy.ofCode_eq_none_iff (n : Nat) : RoundingPolicy.ofCode n = none ↔ n ≠ 0 ∧ n ≠ 1 := by
  unfold RoundingPolicy.ofCode
  split <;> simp_all

theorem OverflowPolicy.ofCode_eq_none_iff (n : Nat) : OverflowPolicy.ofCode n = none ↔ n ≠ 0 ∧ n ≠ 1 := by
  unfold OverflowPolicy.ofCode
  split <;> simp_all

theorem ConfigRequest.format_eq_none_iff (r : ConfigRequest) : r.format = none ↔ 6 ≤ r.fmtId := by
  constructor
  · intro hnone
    by_contra hlt
    by_cases hzero : r.fmtId = 0
    · cases hnone.symm.trans (ConfigRequest.format_of_custom hzero)
    · obtain ⟨f, hf, _⟩ := ConfigRequest.format_of_predefined (r := r) (by omega) (by omega)
      cases hnone.symm.trans hf
  · exact ConfigRequest.format_of_reserved

/-! ## Which failures a request has -/

/-- The layout's failures, each where its check fails (R107's first six rows). -/
theorem Descriptor.mem_layoutFailures (d : Descriptor) (p : Option RoundingPolicy) (f : ConfigFailure) :
    f ∈ d.layoutFailures p ↔ (d.widthsNonzero = false ∧ f = .zeroWidth) ∨ (d.fieldsInside = false ∧ f = .fieldBounds) ∨
      (d.totalSufficient = false ∧ f = .totalTooSmall) ∨ (d.fieldsDisjoint = false ∧ f = .overlap) ∨
      (d.widthsInRange p = false ∧ f = .widthRange) ∨ (d.signOneBit = false ∧ f = .signWidth) := by
  simp only [Descriptor.layoutFailures, List.mem_append, mem_failUnless, or_assoc]

/-- The failures of a request, each where its check fails: those of a descriptor where the request has one. -/
theorem ConfigRequest.mem_failures (r : ConfigRequest) (f : ConfigFailure) :
    f ∈ r.failures ↔
      (∃ g, r.format = some g ∧ f ∈ g.desc.layoutFailures (RoundingPolicy.ofCode r.policy)) ∨
      (RoundingPolicy.ofCode r.policy = none ∧ f = .policy) ∨
      (OverflowPolicy.ofCode r.ovfPolicy = none ∧ f = .ovfPolicy) ∨
      (r.format = none ∧ f = .fmtId) ∨
      (∃ g, r.format = some g ∧ g.desc.biasInRange = false ∧ f = .biasRange) := by
  cases hf : r.format with
  | some g => simp [ConfigRequest.failures_of_format hf, mem_failUnless]
  | none => simp [ConfigRequest.failures_of_no_format hf, mem_failUnless]

theorem ConfigRequest.policy_mem_failures_iff (r : ConfigRequest) :
    .policy ∈ r.failures ↔ RoundingPolicy.ofCode r.policy = none := by
  simp [ConfigRequest.mem_failures, Descriptor.mem_layoutFailures]

theorem ConfigRequest.ovfPolicy_mem_failures_iff (r : ConfigRequest) :
    .ovfPolicy ∈ r.failures ↔ OverflowPolicy.ofCode r.ovfPolicy = none := by
  simp [ConfigRequest.mem_failures, Descriptor.mem_layoutFailures]

theorem ConfigRequest.fmtId_mem_failures_iff (r : ConfigRequest) : .fmtId ∈ r.failures ↔ r.format = none := by
  simp [ConfigRequest.mem_failures, Descriptor.mem_layoutFailures]

/-- Of a request with a legal format and rounding policy the descriptor's checks are those of a configuration with that format
and policy, whatever its overflow policy. -/
theorem ConfigRequest.mem_failures_of_legal {r : ConfigRequest} {c : Cfg} (hf : r.format = some c.format)
    (hp : RoundingPolicy.ofCode r.policy = some c.policy) {f : ConfigFailure} (hne : f ≠ .ovfPolicy) :
    f ∈ r.failures ↔ f ∈ c.desc.layoutFailures (some c.policy) ∨ (c.desc.biasInRange = false ∧ f = .biasRange) := by
  simp [ConfigRequest.mem_failures, hf, hp, hne, Cfg.desc]

/-- The widths of R23's check, of a configuration. -/
theorem Cfg.widthsInRange_iff (c : Cfg) : c.desc.widthsInRange (some c.policy) = true ↔
    ∀ w ∈ [c.desc.totalW, c.desc.expW, c.desc.manW, c.mw], 1 ≤ w ∧ w ≤ 128 := by
  simp only [Descriptor.widthsInRange_iff, List.forall_mem_cons, List.not_mem_nil, false_imp_iff, implies_true, and_true]
  rfl

/-! ## Elaboration and the failures -/

/-- A request without failures names a configuration. -/
theorem ConfigRequest.exists_names_of_no_failures {r : ConfigRequest} (h : r.failures = []) : ∃ c, r.Names c := by
  have no_failure (f : ConfigFailure) : f ∉ r.failures := by rw [h]; exact List.not_mem_nil
  obtain ⟨f, hf⟩ := Option.ne_none_iff_exists'.mp (mt r.fmtId_mem_failures_iff.mpr (no_failure _))
  obtain ⟨p, hp⟩ := Option.ne_none_iff_exists'.mp (mt r.policy_mem_failures_iff.mpr (no_failure _))
  obtain ⟨o, ho⟩ := Option.ne_none_iff_exists'.mp (mt r.ovfPolicy_mem_failures_iff.mpr (no_failure _))
  exact ⟨⟨f, p, o⟩, hf, hp, ho⟩

/-- A request yields an instance exactly when it has no failure (10_state.md R26). -/
theorem ConfigRequest.exists_elaborate_iff (r : ConfigRequest) : (∃ c, r.elaborate = .ok c) ↔ r.failures = [] := by
  simp only [ConfigRequest.elaborate_eq_ok_iff]
  constructor
  · rintro ⟨c, hnames, hw⟩
    exact hnames.failures.trans hw
  · intro h
    obtain ⟨c, hnames⟩ := ConfigRequest.exists_names_of_no_failures h
    exact ⟨c, hnames, hnames.failures.symm.trans h⟩

/-- A request with failures is refused with all of them (60_exceptions.md R107). -/
theorem ConfigRequest.elaborate_of_failures {r : ConfigRequest} (h : r.failures ≠ []) :
    r.elaborate = .error r.failures := by
  unfold ConfigRequest.elaborate
  split
  case h_1 hnil _ _ _ => exact absurd hnil h
  case h_2 => rfl

end Sys2Proof
end

section
/-! SUPPORT. The statement on what a refused request reports (60_exceptions.md R107). -/

open Sys2Proof Sys2Proof.Machine

/-- Settles O10: the list of failures is put together in the table's order, one check after the other, and each check decides the
condition of its row. -/
theorem everyFailingConditionIsReportedInOrder : Obligations.EveryFailingConditionIsReportedInOrder := by
  intro r
  refine ⟨r.failures_sublist, r.exists_elaborate_iff, ConfigRequest.elaborate_of_failures,
    r.policy_mem_failures_iff.trans (RoundingPolicy.ofCode_eq_none_iff _),
    r.ovfPolicy_mem_failures_iff.trans (OverflowPolicy.ofCode_eq_none_iff _),
    r.fmtId_mem_failures_iff.trans r.format_eq_none_iff, fun c hf hp => ?_⟩
  rw [← RoundingPolicy.ofCode_eq_some_iff] at hp
  have reported {f : ConfigFailure} (hne : f ≠ .ovfPolicy) := ConfigRequest.mem_failures_of_legal hf hp hne
  refine ⟨?zeroWidth, ?fieldBounds, ?totalTooSmall, ?overlap, ?widthRange, ?signWidth, ?biasRange⟩
  all_goals
    rw [reported (by decide)]
    simp only [Descriptor.mem_layoutFailures, reduceCtorEq, and_false, and_true, or_false, false_or, ← Bool.not_eq_true]
  case zeroWidth => rw [Descriptor.widthsNonzero_iff]; omega
  case fieldBounds => rw [Descriptor.fieldsInside_iff]; omega
  case totalTooSmall => rw [Descriptor.totalSufficient_iff]; omega
  case overlap => rw [Descriptor.fieldsDisjoint_iff]
  case widthRange =>
    rw [Cfg.widthsInRange_iff]
    simp only [not_forall, not_and_or, Nat.not_le, exists_prop]
  case signWidth => rw [Descriptor.signOneBit_iff]
  case biasRange => rw [Descriptor.biasInRange_iff]; omega

end

section
/-! SUPPORT. The conversions of zero operands, and the statement on the first conversions after reset
(70_reset_and_hazards.md R128). -/

namespace Sys2Proof.Machine

open Sys2Proof

/-- The zero storage value has zero fields, and a zero exponent infers no implicit bit (40_unpack.md R80). -/
theorem unpack_zero (c : Cfg) : unpack c 0 = { sign := 0, exp := 0, man := 0 } := by
  simp only [unpack, field_zero, alignMantissa_zero, Nat.zero_shiftLeft]

/-- Zero operands are what zero unpacks to, so the round trip packs them to zero (41_pack.md R95). -/
theorem pack_zero {c : Cfg} (h : c.Wf) : pack c 0 0 0 = { bits := 0, movf := false, eovf := false } := by
  have roundTrip := pack_unpack h 0
  rwa [unpack_zero, Nat.zero_and] at roundTrip

/-- With `SB` zero, `UNPACK` clears the three unpacked registers. -/
theorem exec_unpack_of_sb_zero {s : State} (hsb : s.sb = 0) :
    exec .unpack s = .next { s with us := 0, ue := 0, um := 0, resp := some { rdata := 0, cerr := false } } := by
  have hzero : unpack s.cfg s.sb.toNat = { sign := 0, exp := 0, man := 0 } := by
    rw [hsb]
    exact unpack_zero s.cfg
  rw [exec_unpack, hzero]
  rfl

/-- With the three operands zero, `PACK` clears `SB` and the two flags. -/
theorem exec_pack_of_operands_zero {s : State} (h : s.Wf) (hus : s.us = 0) (hue : s.ue = 0) (hum : s.um = 0) :
    exec .pack s = .next { s with sb := 0, st := s.st &&& 0b100, resp := some { rdata := 0, cerr := false } } := by
  have hzero : s.packed = { bits := 0, movf := false, eovf := false } := by
    rw [State.packed, hus, hue, hum]
    exact pack_zero h.1
  rw [exec_pack h hzero, State.stOf_cerr_no_flags]
  rfl

/-- With nothing but `CERR` left in `ST`, the two flags of `PACK` are clear (10_state.md R42). -/
theorem State.flags_false_of_st_eq_and {s : State} {v : BitVec 3} (h : s.st = v &&& 0b100) :
    s.movf = false ∧ s.eovf = false := by
  have cleared : ∀ v : BitVec 3, (v &&& 0b100).getLsbD 0 = false ∧ (v &&& 0b100).getLsbD 1 = false := by decide
  rw [State.movf, State.eovf, h]
  exact cleared v

end Sys2Proof.Machine

open Sys2Proof Sys2Proof.Machine

/-- Settles O40: the two commands find zero registers, and both conversions take zero to zero. -/
theorem firstConversionsAfterResetYieldZero : Obligations.FirstConversionsAfterResetYieldZero :=
  fun c es hw => ⟨⟨_, exec_unpack_of_sb_zero rfl, rfl, rfl, rfl⟩,
    ⟨_, exec_pack_of_operands_zero (State.resetOf_wf hw es) rfl rfl rfl, rfl, State.flags_false_of_st_eq_and rfl⟩,
    unpack_zero c, pack_zero hw⟩

end
